-- ==== Sys2Proof/Word.lean ====
section
/-! DEFINITION. The word types and the fixed numeric parameters of the block (00_scope.md R10).

The output of the block is one 32-bit value (10_state.md R35, 20_memory.md R41); it has bit patterns only there and in the
match constants. Operands are mathematical integers (00_scope.md R13) and are not bit vectors. -/

namespace Sys2Proof

/-- An instruction word or a match pattern: an unsigned 32-bit value (R10 `ILEN`, R35). -/
abbrev Word := BitVec 32

/-- A byte of the request image that Decode.lean reads (assumption 4: the image is the model's own, the block has none). -/
abbrev Byte := BitVec 8

/-! The parameters of R10, at the values R10 and decision D9 fix. -/

/-- Target register width; the shift-amount bound is this value (R10). -/
abbrev XLEN : Nat := 64
/-- Number of register indices (R10). -/
abbrev NREG : Nat := 32
/-- Width of a register index, "valid range 0–31 (5 bits)" (R10 `NREG`). -/
abbrev REGW : Nat := 5
/-- Width of a control/status-register address (R10). -/
abbrev CSRW : Nat := 12
/-- Immediate width of the immediate and store formats (R10 `IMM_I`, `IMM_S`). -/
abbrev IMM12 : Nat := 12
/-- Branch immediate width, bit 0 zero (R10). -/
abbrev IMM_B : Nat := 13
/-- Upper-immediate width (R10). -/
abbrev IMM_U : Nat := 20
/-- Jump immediate width, bit 0 zero (R10). -/
abbrev IMM_J : Nat := 21
/-- CSR-immediate operand width (R10). -/
abbrev IMM_CSRI : Nat := 5
/-- Exclusive upper bound of a shift amount (R10). -/
abbrev SHAMT_LIMIT : Nat := 64
/-- The width an `InvalidOperand` carries for a shift amount (10_state.md R34, decision D16). -/
abbrev SHAMTW : Nat := 6

/-- The one register-name constant the spec defines (10_state.md R26, decision D11). -/
abbrev REG_ZERO : Int := 0

end Sys2Proof
end

