-- ==== Sys2Proof/Machine/Extract.lean ====
section
/-! DEFINITION. The field-extraction functions of the target (30_encoding.md R67), with the extension convention of R68. They are
not part of the block (00_scope.md R5); the round-trip (41_formats.md R113) is stated through them and Decode.lean uses them. -/

namespace Sys2Proof

/-- `opcode(w) = w[6:0]`. -/
def opcodeOf (w : Word) : Int := ((w.extractLsb' 0 7).toNat : Int)

/-- `rd(w) = w[11:7]`. -/
def rdOf (w : Word) : Int := ((w.extractLsb' 7 5).toNat : Int)

/-- `rs1(w) = w[19:15]`. -/
def rs1Of (w : Word) : Int := ((w.extractLsb' 15 5).toNat : Int)

/-- `rs2(w) = w[24:20]`. -/
def rs2Of (w : Word) : Int := ((w.extractLsb' 20 5).toNat : Int)

/-- `immI(w) = sext_12(w[31:20])`. -/
def immIOf (w : Word) : Int := (w.extractLsb' 20 12).toInt

/-- `shamt(w) = w[25:20]`. -/
def shamtOf (w : Word) : Int := ((w.extractLsb' 20 6).toNat : Int)

/-- `immS(w) = sext_12({w[31:25], w[11:7]})`. -/
def immSOf (w : Word) : Int := (w.extractLsb' 25 7 ++ w.extractLsb' 7 5).toInt

/-- `immB(w) = sext_13({w[31], w[7], w[30:25], w[11:8], 0b0})`. -/
def immBOf (w : Word) : Int :=
  (w.extractLsb' 31 1 ++ w.extractLsb' 7 1 ++ w.extractLsb' 25 6 ++ w.extractLsb' 8 4 ++ 0#1).toInt

/-- `immU(w) = w[31:12]`. -/
def immUOf (w : Word) : Int := ((w.extractLsb' 12 20).toNat : Int)

/-- `immJ(w) = sext_21({w[31], w[19:12], w[20], w[30:21], 0b0})`. -/
def immJOf (w : Word) : Int :=
  (w.extractLsb' 31 1 ++ w.extractLsb' 12 8 ++ w.extractLsb' 20 1 ++ w.extractLsb' 21 10 ++ 0#1).toInt

/-- `csr(w) = w[31:20]`. -/
def csrOf (w : Word) : Int := ((w.extractLsb' 20 12).toNat : Int)

/-- `uimm5(w) = w[19:15]`. -/
def uimm5Of (w : Word) : Int := ((w.extractLsb' 15 5).toNat : Int)

end Sys2Proof
end

