-- ==== Sys2Proof/Config.lean ====
section
/-! DEFINITION. The configuration of the block (10_state.md R32, 00_scope.md R11): the types of the match table and of the
one flag, with the mnemonics that key the table (30_encoding.md R78) and the formats (R48). The block has no free value:
every point the source leaves open is one of these two parameters or is fixed by a decision of 92_eei_decisions.md.

The values (the default table, the masks, which format a mnemonic has) are in Machine/Tables.lean. -/

namespace Sys2Proof

/-- The 30 named constructors, the domain of the match table (30_encoding.md R78, 10_state.md R32). -/
inductive Mnemonic where
  | ld | lw | lh | lb | flw | fld | sd | sw | sh | sb | fsw | fsd | addi | andi | ori | xori | slli
  | srli | lui | jal | csrrw | csrrs | csrrc | csrrwi | csrrsi | csrrci | ebreak | cEbreak | dret |
  fenceI
  deriving DecidableEq, Repr

/-- The eight formats of 30_encoding.md R48, the shift variant of the I format, which has an encoder entry of its own, and
the operand-free constants of 47_fixed.md (the last row of R66). -/
inductive Format where
  | J | R | S | I | Ishift | U | B | CSR | CSRI | zeroOperand
  deriving DecidableEq, Repr

/-- The match table `MATCH : Mnemonic → UInt32` as plain data: one 32-bit pattern per mnemonic (10_state.md R32). -/
structure MatchTable where
  ld : Word
  lw : Word
  lh : Word
  lb : Word
  flw : Word
  fld : Word
  sd : Word
  sw : Word
  sh : Word
  sb : Word
  fsw : Word
  fsd : Word
  addi : Word
  andi : Word
  ori : Word
  xori : Word
  slli : Word
  srli : Word
  lui : Word
  jal : Word
  csrrw : Word
  csrrs : Word
  csrrc : Word
  csrrwi : Word
  csrrsi : Word
  csrrci : Word
  ebreak : Word
  cEbreak : Word
  dret : Word
  fenceI : Word
  deriving DecidableEq, Repr

/-- `MATCH[m]` (00_scope.md R15). -/
def MatchTable.get (t : MatchTable) : Mnemonic → Word
  | .ld => t.ld
  | .lw => t.lw
  | .lh => t.lh
  | .lb => t.lb
  | .flw => t.flw
  | .fld => t.fld
  | .sd => t.sd
  | .sw => t.sw
  | .sh => t.sh
  | .sb => t.sb
  | .fsw => t.fsw
  | .fsd => t.fsd
  | .addi => t.addi
  | .andi => t.andi
  | .ori => t.ori
  | .xori => t.xori
  | .slli => t.slli
  | .srli => t.srli
  | .lui => t.lui
  | .jal => t.jal
  | .csrrw => t.csrrw
  | .csrrs => t.csrrs
  | .csrrc => t.csrrc
  | .csrrwi => t.csrrwi
  | .csrrsi => t.csrrsi
  | .csrrci => t.csrrci
  | .ebreak => t.ebreak
  | .cEbreak => t.cEbreak
  | .dret => t.dret
  | .fenceI => t.fenceI

/-- What the block reads besides the request (10_state.md R32). Both parameters are fixed before the first request and no
request writes them (70_reset_and_hazards.md R167). -/
structure Config where
  /-- The match table (R32, decision D10). -/
  table : MatchTable
  /-- Whether a 12-bit immediate in 2048..4095 is accepted (R11, decision D3). -/
  imm12AcceptsUnsignedAlias : Bool
  deriving DecidableEq, Repr

end Sys2Proof
end

