-- ==== Sys2Proof/Syntax.lean ====
section
/-! DEFINITION. The requests of the block (30_encoding.md R47): one constructor per row of spec/opcode_table.json, the 30 named
constructors of R78 and the nine format encoders of R48.

Operands are unbounded integers in the order of R49 (00_scope.md R13, decision D2), so a request may carry an operand out of
its domain: the block answers it with `InvalidOperand`. A format-encoder request carries any 32-bit `match` pattern first
(R47, R72). -/

namespace Sys2Proof

/-- A request: a named-constructor request `Named(m, ops)` or a format-encoder request `Fmt(F, match, ops)` (R47). -/
inductive Instr where
  /-- load double word (R117) -/
  | ld (rd rs1 imm : Int)
  /-- load word (R118) -/
  | lw (rd rs1 imm : Int)
  /-- load half word (R119) -/
  | lh (rd rs1 imm : Int)
  /-- load byte (R120) -/
  | lb (rd rs1 imm : Int)
  /-- load float word (R121) -/
  | flw (rd rs1 imm : Int)
  /-- load double (float) word (R122) -/
  | fld (rd rs1 imm : Int)
  /-- store double word (R123) -/
  | sd (rs1 rs2 imm : Int)
  /-- store word (R124) -/
  | sw (rs1 rs2 imm : Int)
  /-- store half word (R125) -/
  | sh (rs1 rs2 imm : Int)
  /-- store byte (R126) -/
  | sb (rs1 rs2 imm : Int)
  /-- store float word (R127) -/
  | fsw (rs1 rs2 imm : Int)
  /-- store double (float) word (R128) -/
  | fsd (rs1 rs2 imm : Int)
  /-- add-immediate (R129) -/
  | addi (rd rs1 imm : Int)
  /-- and-immediate (R130) -/
  | andi (rd rs1 imm : Int)
  /-- or-immediate (R131) -/
  | ori (rd rs1 imm : Int)
  /-- xor-immediate (R132) -/
  | xori (rd rs1 imm : Int)
  /-- logical-left-immediate shift (R133) -/
  | slli (rd rs1 shamt : Int)
  /-- logical-right-immediate shift (R134) -/
  | srli (rd rs1 shamt : Int)
  /-- upper-immediate load (R135) -/
  | lui (rd imm : Int)
  /-- unconditional jump (R136) -/
  | jal (rd imm : Int)
  /-- CSR read-modify-write, register form, write (R137) -/
  | csrrw (rd rs1 csr : Int)
  /-- CSR register form, set (R138) -/
  | csrrs (rd rs1 csr : Int)
  /-- CSR register form, clear (R139) -/
  | csrrc (rd rs1 csr : Int)
  /-- CSR immediate form, write (R140) -/
  | csrrwi (rd imm csr : Int)
  /-- CSR immediate form, set (R141) -/
  | csrrsi (rd imm csr : Int)
  /-- CSR immediate form, clear (R142) -/
  | csrrci (rd imm csr : Int)
  /-- debug breakpoint, 32-bit encoding (R143) -/
  | ebreak
  /-- `c.ebreak`, debug breakpoint, 16-bit encoding (R144) -/
  | cEbreak
  /-- debug-return (R145) -/
  | dret
  /-- `fence.i`, instruction-fence (R146) -/
  | fenceI
  /-- format-encoder request `enc_J` (R95) -/
  | encJ (m : Word) (rd imm : Int)
  /-- format-encoder request `enc_R` (R96) -/
  | encR (m : Word) (rd rs1 rs2 : Int)
  /-- format-encoder request `enc_S` (R97) -/
  | encS (m : Word) (rs1 rs2 imm : Int)
  /-- format-encoder request `enc_I` (R98) -/
  | encI (m : Word) (rd rs1 imm : Int)
  /-- format-encoder request `enc_Ishift` (R99) -/
  | encIshift (m : Word) (rd rs1 shamt : Int)
  /-- format-encoder request `enc_U` (R100) -/
  | encU (m : Word) (rd imm : Int)
  /-- format-encoder request `enc_B` (R101) -/
  | encB (m : Word) (rs1 rs2 imm : Int)
  /-- format-encoder request `enc_CSR` (R102) -/
  | encCSR (m : Word) (rd rs1 csr : Int)
  /-- format-encoder request `enc_CSRI` (R103) -/
  | encCSRI (m : Word) (rd imm csr : Int)
  deriving DecidableEq, Repr

end Sys2Proof
end

