-- ==== Sys2Proof/Machine/Tables.lean ====
section
/-! DEFINITION. The tables of 30_encoding.md: which format a mnemonic has (R78), the default match table (R79), the decode
masks (R80), the operand-field masks (R66), and the premise a configuration must meet (10_state.md R33). -/

namespace Sys2Proof

/-- The 30 mnemonics in the order of R78. -/
def Mnemonic.all : List Mnemonic :=
  [.ld, .lw, .lh, .lb, .flw, .fld,
   .sd, .sw, .sh, .sb, .fsw, .fsd,
   .addi, .andi, .ori, .xori, .slli, .srli,
   .lui, .jal, .csrrw, .csrrs, .csrrc, .csrrwi,
   .csrrsi, .csrrci, .ebreak, .cEbreak, .dret, .fenceI]

/-- The format of each named constructor (R78, column "format"). -/
def Mnemonic.format : Mnemonic → Format
  | .ld => .I
  | .lw => .I
  | .lh => .I
  | .lb => .I
  | .flw => .I
  | .fld => .I
  | .sd => .S
  | .sw => .S
  | .sh => .S
  | .sb => .S
  | .fsw => .S
  | .fsd => .S
  | .addi => .I
  | .andi => .I
  | .ori => .I
  | .xori => .I
  | .slli => .Ishift
  | .srli => .Ishift
  | .lui => .U
  | .jal => .J
  | .csrrw => .CSR
  | .csrrs => .CSR
  | .csrrc => .CSR
  | .csrrwi => .CSRI
  | .csrrsi => .CSRI
  | .csrrci => .CSRI
  | .ebreak => .zeroOperand
  | .cEbreak => .zeroOperand
  | .dret => .zeroOperand
  | .fenceI => .zeroOperand

/-- `fieldMask(F)`: the bits the operand fields of a format occupy (R66). -/
def fieldMask : Format → Word
  | .J => 0xFFFFFF80#32
  | .R => 0x01FF8F80#32
  | .S => 0xFFFF8F80#32
  | .I => 0xFFFF8F80#32
  | .Ishift => 0x03FF8F80#32
  | .U => 0xFFFFFF80#32
  | .B => 0xFFFF8F80#32
  | .CSR => 0xFFFF8F80#32
  | .CSRI => 0xFFFF8F80#32
  | .zeroOperand => 0x00000000#32

/-- `matchBits(F) = ~fieldMask(F)`: the match-supplied bits (R66). -/
def matchBits (F : Format) : Word := ~~~ fieldMask F

/-- The default match table (R79; general knowledge, not in source: assumption 2). -/
def defaultTable : MatchTable where
  ld := 0x00003003#32
  lw := 0x00002003#32
  lh := 0x00001003#32
  lb := 0x00000003#32
  flw := 0x00002007#32
  fld := 0x00003007#32
  sd := 0x00003023#32
  sw := 0x00002023#32
  sh := 0x00001023#32
  sb := 0x00000023#32
  fsw := 0x00002027#32
  fsd := 0x00003027#32
  addi := 0x00000013#32
  andi := 0x00007013#32
  ori := 0x00006013#32
  xori := 0x00004013#32
  slli := 0x00001013#32
  srli := 0x00005013#32
  lui := 0x00000037#32
  jal := 0x0000006F#32
  csrrw := 0x00001073#32
  csrrs := 0x00002073#32
  csrrc := 0x00003073#32
  csrrwi := 0x00005073#32
  csrrsi := 0x00006073#32
  csrrci := 0x00007073#32
  ebreak := 0x00100073#32
  cEbreak := 0x00009002#32
  dret := 0x7B200073#32
  fenceI := 0x0000100F#32

/-- The decode masks of the default table (R80; general knowledge, not in source). The block never uses one; Decode.lean
does. -/
def decodeMask : Mnemonic → Word
  | .ld => 0x0000707F#32
  | .lw => 0x0000707F#32
  | .lh => 0x0000707F#32
  | .lb => 0x0000707F#32
  | .flw => 0x0000707F#32
  | .fld => 0x0000707F#32
  | .sd => 0x0000707F#32
  | .sw => 0x0000707F#32
  | .sh => 0x0000707F#32
  | .sb => 0x0000707F#32
  | .fsw => 0x0000707F#32
  | .fsd => 0x0000707F#32
  | .addi => 0x0000707F#32
  | .andi => 0x0000707F#32
  | .ori => 0x0000707F#32
  | .xori => 0x0000707F#32
  | .slli => 0xFC00707F#32
  | .srli => 0xFC00707F#32
  | .lui => 0x0000007F#32
  | .jal => 0x0000007F#32
  | .csrrw => 0x0000707F#32
  | .csrrs => 0x0000707F#32
  | .csrrc => 0x0000707F#32
  | .csrrwi => 0x0000707F#32
  | .csrrsi => 0x0000707F#32
  | .csrrci => 0x0000707F#32
  | .ebreak => 0xFFFFFFFF#32
  | .cEbreak => 0x0000FFFF#32
  | .dret => 0xFFFFFFFF#32
  | .fenceI => 0x0000707F#32

/-- The well-formedness premise on a configuration (10_state.md R33, decision D8): no match constant has a bit in an operand
field of its format. -/
def Config.wellFormed (c : Config) : Bool :=
  Mnemonic.all.all fun m => c.table.get m &&& fieldMask m.format == 0#32

/-- The default configuration: the table of R79 and `imm12AcceptsUnsignedAlias = false` (00_scope.md R11). -/
def Config.standard : Config where
  table := defaultTable
  imm12AcceptsUnsignedAlias := false

/-- The mnemonic of a named request; a format-encoder request has none (R47). -/
def Instr.mnemonic : Instr → Option Mnemonic
  | .ld _ _ _ => some .ld
  | .lw _ _ _ => some .lw
  | .lh _ _ _ => some .lh
  | .lb _ _ _ => some .lb
  | .flw _ _ _ => some .flw
  | .fld _ _ _ => some .fld
  | .sd _ _ _ => some .sd
  | .sw _ _ _ => some .sw
  | .sh _ _ _ => some .sh
  | .sb _ _ _ => some .sb
  | .fsw _ _ _ => some .fsw
  | .fsd _ _ _ => some .fsd
  | .addi _ _ _ => some .addi
  | .andi _ _ _ => some .andi
  | .ori _ _ _ => some .ori
  | .xori _ _ _ => some .xori
  | .slli _ _ _ => some .slli
  | .srli _ _ _ => some .srli
  | .lui _ _ => some .lui
  | .jal _ _ => some .jal
  | .csrrw _ _ _ => some .csrrw
  | .csrrs _ _ _ => some .csrrs
  | .csrrc _ _ _ => some .csrrc
  | .csrrwi _ _ _ => some .csrrwi
  | .csrrsi _ _ _ => some .csrrsi
  | .csrrci _ _ _ => some .csrrci
  | .ebreak => some .ebreak
  | .cEbreak => some .cEbreak
  | .dret => some .dret
  | .fenceI => some .fenceI
  | .encJ _ _ _ => none
  | .encR _ _ _ _ => none
  | .encS _ _ _ _ => none
  | .encI _ _ _ _ => none
  | .encIshift _ _ _ _ => none
  | .encU _ _ _ => none
  | .encB _ _ _ _ => none
  | .encCSR _ _ _ _ => none
  | .encCSRI _ _ _ _ => none

/-- The format of a request: the format named in a format-encoder request, or `format(m)` of a named one (R47, R50). -/
def Instr.format : Instr → Format
  | .ld _ _ _ => .I
  | .lw _ _ _ => .I
  | .lh _ _ _ => .I
  | .lb _ _ _ => .I
  | .flw _ _ _ => .I
  | .fld _ _ _ => .I
  | .sd _ _ _ => .S
  | .sw _ _ _ => .S
  | .sh _ _ _ => .S
  | .sb _ _ _ => .S
  | .fsw _ _ _ => .S
  | .fsd _ _ _ => .S
  | .addi _ _ _ => .I
  | .andi _ _ _ => .I
  | .ori _ _ _ => .I
  | .xori _ _ _ => .I
  | .slli _ _ _ => .Ishift
  | .srli _ _ _ => .Ishift
  | .lui _ _ => .U
  | .jal _ _ => .J
  | .csrrw _ _ _ => .CSR
  | .csrrs _ _ _ => .CSR
  | .csrrc _ _ _ => .CSR
  | .csrrwi _ _ _ => .CSRI
  | .csrrsi _ _ _ => .CSRI
  | .csrrci _ _ _ => .CSRI
  | .ebreak => .zeroOperand
  | .cEbreak => .zeroOperand
  | .dret => .zeroOperand
  | .fenceI => .zeroOperand
  | .encJ _ _ _ => .J
  | .encR _ _ _ _ => .R
  | .encS _ _ _ _ => .S
  | .encI _ _ _ _ => .I
  | .encIshift _ _ _ _ => .Ishift
  | .encU _ _ _ => .U
  | .encB _ _ _ _ => .B
  | .encCSR _ _ _ _ => .CSR
  | .encCSRI _ _ _ _ => .CSRI

/-- The match pattern a request is encoded with: the caller's in a format-encoder request, `MATCH[m]` in a named one (R50). -/
def Instr.matchIn (t : MatchTable) : Instr → Word
  | .ld _ _ _ => t.ld
  | .lw _ _ _ => t.lw
  | .lh _ _ _ => t.lh
  | .lb _ _ _ => t.lb
  | .flw _ _ _ => t.flw
  | .fld _ _ _ => t.fld
  | .sd _ _ _ => t.sd
  | .sw _ _ _ => t.sw
  | .sh _ _ _ => t.sh
  | .sb _ _ _ => t.sb
  | .fsw _ _ _ => t.fsw
  | .fsd _ _ _ => t.fsd
  | .addi _ _ _ => t.addi
  | .andi _ _ _ => t.andi
  | .ori _ _ _ => t.ori
  | .xori _ _ _ => t.xori
  | .slli _ _ _ => t.slli
  | .srli _ _ _ => t.srli
  | .lui _ _ => t.lui
  | .jal _ _ => t.jal
  | .csrrw _ _ _ => t.csrrw
  | .csrrs _ _ _ => t.csrrs
  | .csrrc _ _ _ => t.csrrc
  | .csrrwi _ _ _ => t.csrrwi
  | .csrrsi _ _ _ => t.csrrsi
  | .csrrci _ _ _ => t.csrrci
  | .ebreak => t.ebreak
  | .cEbreak => t.cEbreak
  | .dret => t.dret
  | .fenceI => t.fenceI
  | .encJ m _ _ => m
  | .encR m _ _ _ => m
  | .encS m _ _ _ => m
  | .encI m _ _ _ => m
  | .encIshift m _ _ _ => m
  | .encU m _ _ => m
  | .encB m _ _ _ => m
  | .encCSR m _ _ _ => m
  | .encCSRI m _ _ _ => m

end Sys2Proof
end

