-- ==== Sys2Proof/Machine/Layout.lean ====
section
/-! DEFINITION. The field layouts of 30_encoding.md R55 to R63, written as the tables stand there: from bit 31 down to bit 0, the
match-supplied bits 0. Decode.lean's encoder is built from these; the machine's encoders (Machine/Formats.lean) follow the
pseudocode of 41_formats.md instead, so that a statement comparing the two compares the two parts of the spec. -/

namespace Sys2Proof

/-- `u_N(v)`, the N-bit two's-complement pattern of `v` (00_scope.md R13). -/
def patternOf (n : Nat) (v : Int) : BitVec n := BitVec.ofInt n v

/-- J layout: `imm[20] imm[10:1] imm[11] imm[19:12] rd`, opcode bits 0 (R55). -/
def layoutJ (rd imm : Int) : Word :=
  let p := patternOf 21 imm
  p.extractLsb' 20 1 ++ p.extractLsb' 1 10 ++ p.extractLsb' 11 1 ++ p.extractLsb' 12 8 ++ patternOf 5 rd ++ 0#7

/-- R layout: rs2 at [24:20], rs1 at [19:15], rd at [11:7] (R56). -/
def layoutR (rd rs1 rs2 : Int) : Word :=
  0#7 ++ patternOf 5 rs2 ++ patternOf 5 rs1 ++ 0#3 ++ patternOf 5 rd ++ 0#7

/-- S layout: `imm[11:5]` at [31:25], rs2, rs1, `imm[4:0]` at [11:7] (R57). -/
def layoutS (rs1 rs2 imm : Int) : Word :=
  let p := patternOf 12 imm
  p.extractLsb' 5 7 ++ patternOf 5 rs2 ++ patternOf 5 rs1 ++ 0#3 ++ p.extractLsb' 0 5 ++ 0#7

/-- I layout: `imm[11:0]` at [31:20], rs1, rd (R58). -/
def layoutI (rd rs1 imm : Int) : Word :=
  patternOf 12 imm ++ patternOf 5 rs1 ++ 0#3 ++ patternOf 5 rd ++ 0#7

/-- I-shift layout: `shamt[5:0]` at [25:20], rs1, rd; bits [31:26] are 0 from the operand (R59). -/
def layoutIshift (rd rs1 shamt : Int) : Word :=
  0#6 ++ patternOf 6 shamt ++ patternOf 5 rs1 ++ 0#3 ++ patternOf 5 rd ++ 0#7

/-- U layout: `imm[19:0]` at [31:12], rd (R60). -/
def layoutU (rd imm : Int) : Word := patternOf 20 imm ++ patternOf 5 rd ++ 0#7

/-- B layout: `imm[12] imm[10:5] rs2 rs1`, 3 match bits, `imm[4:1] imm[11]`, opcode bits 0 (R61). -/
def layoutB (rs1 rs2 imm : Int) : Word :=
  let p := patternOf 13 imm
  p.extractLsb' 12 1 ++ p.extractLsb' 5 6 ++ patternOf 5 rs2 ++ patternOf 5 rs1 ++ 0#3 ++ p.extractLsb' 1 4 ++
    p.extractLsb' 11 1 ++ 0#7

/-- CSR-register layout: csr at [31:20], rs1, rd (R62). -/
def layoutCSR (rd rs1 csr : Int) : Word :=
  patternOf 12 csr ++ patternOf 5 rs1 ++ 0#3 ++ patternOf 5 rd ++ 0#7

/-- CSR-immediate layout: csr at [31:20], the 5-bit immediate at [19:15], rd (R63). -/
def layoutCSRI (rd imm csr : Int) : Word :=
  patternOf 12 csr ++ patternOf 5 imm ++ 0#3 ++ patternOf 5 rd ++ 0#7

/-- The operand bits of a request by its format's layout; the zero-operand requests place none (R66, 47_fixed.md). -/
def Instr.layoutBits : Instr → Word
  | .ld rd rs1 imm => layoutI rd rs1 imm
  | .lw rd rs1 imm => layoutI rd rs1 imm
  | .lh rd rs1 imm => layoutI rd rs1 imm
  | .lb rd rs1 imm => layoutI rd rs1 imm
  | .flw rd rs1 imm => layoutI rd rs1 imm
  | .fld rd rs1 imm => layoutI rd rs1 imm
  | .sd rs1 rs2 imm => layoutS rs1 rs2 imm
  | .sw rs1 rs2 imm => layoutS rs1 rs2 imm
  | .sh rs1 rs2 imm => layoutS rs1 rs2 imm
  | .sb rs1 rs2 imm => layoutS rs1 rs2 imm
  | .fsw rs1 rs2 imm => layoutS rs1 rs2 imm
  | .fsd rs1 rs2 imm => layoutS rs1 rs2 imm
  | .addi rd rs1 imm => layoutI rd rs1 imm
  | .andi rd rs1 imm => layoutI rd rs1 imm
  | .ori rd rs1 imm => layoutI rd rs1 imm
  | .xori rd rs1 imm => layoutI rd rs1 imm
  | .slli rd rs1 shamt => layoutIshift rd rs1 shamt
  | .srli rd rs1 shamt => layoutIshift rd rs1 shamt
  | .lui rd imm => layoutU rd imm
  | .jal rd imm => layoutJ rd imm
  | .csrrw rd rs1 csr => layoutCSR rd rs1 csr
  | .csrrs rd rs1 csr => layoutCSR rd rs1 csr
  | .csrrc rd rs1 csr => layoutCSR rd rs1 csr
  | .csrrwi rd imm csr => layoutCSRI rd imm csr
  | .csrrsi rd imm csr => layoutCSRI rd imm csr
  | .csrrci rd imm csr => layoutCSRI rd imm csr
  | .ebreak => 0#32
  | .cEbreak => 0#32
  | .dret => 0#32
  | .fenceI => 0#32
  | .encJ _ rd imm => layoutJ rd imm
  | .encR _ rd rs1 rs2 => layoutR rd rs1 rs2
  | .encS _ rs1 rs2 imm => layoutS rs1 rs2 imm
  | .encI _ rd rs1 imm => layoutI rd rs1 imm
  | .encIshift _ rd rs1 shamt => layoutIshift rd rs1 shamt
  | .encU _ rd imm => layoutU rd imm
  | .encB _ rs1 rs2 imm => layoutB rs1 rs2 imm
  | .encCSR _ rd rs1 csr => layoutCSR rd rs1 csr
  | .encCSRI _ rd imm csr => layoutCSRI rd imm csr

end Sys2Proof
end

