-- ==== Sys2Proof/WellFormed.lean ====
section
/-! DEFINITION. When a request is well formed: every operand lies in its domain (10_state.md R34) and a caller's match leaves the
operand fields free (the premise of 41_formats.md R113).

Being well formed is no condition for running: the block answers every request (R107), an ill-formed operand with
`InvalidOperand` and an overlapping caller match by OR (R92). -/

namespace Sys2Proof

/-- `0 ≤ r ≤ 31`, the domain of rd, rs1 and rs2 (R23, R34). -/
def regLegal (r : Int) : Bool := decide (0 ≤ r) && decide (r ≤ 31)

/-- The domain of an I or S immediate: −2048..2047, and 2048..4095 too when `accepts` (R34, decision D3). -/
def imm12Legal (accepts : Bool) (v : Int) : Bool :=
  decide (-2048 ≤ v) && (decide (v ≤ 2047) || (accepts && decide (v ≤ 4095)))

/-- `0 ≤ shamt ≤ 63` (R34). -/
def shamtLegal (v : Int) : Bool := decide (0 ≤ v) && decide (v ≤ 63)

/-- The even integers in −4096..4094 (R34). -/
def immBLegal (v : Int) : Bool := decide (v % 2 = 0) && decide (-4096 ≤ v) && decide (v ≤ 4094)

/-- `0 ≤ imm ≤ 2^20 − 1` (R34, decision D4). -/
def immULegal (v : Int) : Bool := decide (0 ≤ v) && decide (v ≤ 1048575)

/-- The even integers in −1048576..1048574 (R34). -/
def immJLegal (v : Int) : Bool := decide (v % 2 = 0) && decide (-1048576 ≤ v) && decide (v ≤ 1048574)

/-- `0 ≤ csr ≤ 4095` (R30, R34). -/
def csrLegal (v : Int) : Bool := decide (0 ≤ v) && decide (v ≤ 4095)

/-- The unsigned 5-bit immediate of the CSRI format, 0..31 (R34, 30_encoding.md R71). -/
def uimm5Legal (v : Int) : Bool := decide (0 ≤ v) && decide (v ≤ 31)

/-- Every operand of the request is in its domain (R34); `accepts` is the flag `imm12AcceptsUnsignedAlias`. -/
def Instr.legal (accepts : Bool) : Instr → Bool
  | .ld rd rs1 imm => regLegal rd && regLegal rs1 && imm12Legal accepts imm
  | .lw rd rs1 imm => regLegal rd && regLegal rs1 && imm12Legal accepts imm
  | .lh rd rs1 imm => regLegal rd && regLegal rs1 && imm12Legal accepts imm
  | .lb rd rs1 imm => regLegal rd && regLegal rs1 && imm12Legal accepts imm
  | .flw rd rs1 imm => regLegal rd && regLegal rs1 && imm12Legal accepts imm
  | .fld rd rs1 imm => regLegal rd && regLegal rs1 && imm12Legal accepts imm
  | .sd rs1 rs2 imm => regLegal rs1 && regLegal rs2 && imm12Legal accepts imm
  | .sw rs1 rs2 imm => regLegal rs1 && regLegal rs2 && imm12Legal accepts imm
  | .sh rs1 rs2 imm => regLegal rs1 && regLegal rs2 && imm12Legal accepts imm
  | .sb rs1 rs2 imm => regLegal rs1 && regLegal rs2 && imm12Legal accepts imm
  | .fsw rs1 rs2 imm => regLegal rs1 && regLegal rs2 && imm12Legal accepts imm
  | .fsd rs1 rs2 imm => regLegal rs1 && regLegal rs2 && imm12Legal accepts imm
  | .addi rd rs1 imm => regLegal rd && regLegal rs1 && imm12Legal accepts imm
  | .andi rd rs1 imm => regLegal rd && regLegal rs1 && imm12Legal accepts imm
  | .ori rd rs1 imm => regLegal rd && regLegal rs1 && imm12Legal accepts imm
  | .xori rd rs1 imm => regLegal rd && regLegal rs1 && imm12Legal accepts imm
  | .slli rd rs1 shamt => regLegal rd && regLegal rs1 && shamtLegal shamt
  | .srli rd rs1 shamt => regLegal rd && regLegal rs1 && shamtLegal shamt
  | .lui rd imm => regLegal rd && immULegal imm
  | .jal rd imm => regLegal rd && immJLegal imm
  | .csrrw rd rs1 csr => regLegal rd && regLegal rs1 && csrLegal csr
  | .csrrs rd rs1 csr => regLegal rd && regLegal rs1 && csrLegal csr
  | .csrrc rd rs1 csr => regLegal rd && regLegal rs1 && csrLegal csr
  | .csrrwi rd imm csr => regLegal rd && uimm5Legal imm && csrLegal csr
  | .csrrsi rd imm csr => regLegal rd && uimm5Legal imm && csrLegal csr
  | .csrrci rd imm csr => regLegal rd && uimm5Legal imm && csrLegal csr
  | .ebreak => true
  | .cEbreak => true
  | .dret => true
  | .fenceI => true
  | .encJ _ rd imm => regLegal rd && immJLegal imm
  | .encR _ rd rs1 rs2 => regLegal rd && regLegal rs1 && regLegal rs2
  | .encS _ rs1 rs2 imm => regLegal rs1 && regLegal rs2 && imm12Legal accepts imm
  | .encI _ rd rs1 imm => regLegal rd && regLegal rs1 && imm12Legal accepts imm
  | .encIshift _ rd rs1 shamt => regLegal rd && regLegal rs1 && shamtLegal shamt
  | .encU _ rd imm => regLegal rd && immULegal imm
  | .encB _ rs1 rs2 imm => regLegal rs1 && regLegal rs2 && immBLegal imm
  | .encCSR _ rd rs1 csr => regLegal rd && regLegal rs1 && csrLegal csr
  | .encCSRI _ rd imm csr => regLegal rd && uimm5Legal imm && csrLegal csr

/-- The caller's match pattern leaves the operand fields of the format free; a named request takes its match from the
configuration, whose own premise is `Config.wellFormed` (41_formats.md R113, 10_state.md R33). -/
def Instr.matchFree : Instr → Bool
  | .ld _ _ _ => true
  | .lw _ _ _ => true
  | .lh _ _ _ => true
  | .lb _ _ _ => true
  | .flw _ _ _ => true
  | .fld _ _ _ => true
  | .sd _ _ _ => true
  | .sw _ _ _ => true
  | .sh _ _ _ => true
  | .sb _ _ _ => true
  | .fsw _ _ _ => true
  | .fsd _ _ _ => true
  | .addi _ _ _ => true
  | .andi _ _ _ => true
  | .ori _ _ _ => true
  | .xori _ _ _ => true
  | .slli _ _ _ => true
  | .srli _ _ _ => true
  | .lui _ _ => true
  | .jal _ _ => true
  | .csrrw _ _ _ => true
  | .csrrs _ _ _ => true
  | .csrrc _ _ _ => true
  | .csrrwi _ _ _ => true
  | .csrrsi _ _ _ => true
  | .csrrci _ _ _ => true
  | .ebreak => true
  | .cEbreak => true
  | .dret => true
  | .fenceI => true
  | .encJ m _ _ => m &&& fieldMask .J == 0#32
  | .encR m _ _ _ => m &&& fieldMask .R == 0#32
  | .encS m _ _ _ => m &&& fieldMask .S == 0#32
  | .encI m _ _ _ => m &&& fieldMask .I == 0#32
  | .encIshift m _ _ _ => m &&& fieldMask .Ishift == 0#32
  | .encU m _ _ => m &&& fieldMask .U == 0#32
  | .encB m _ _ _ => m &&& fieldMask .B == 0#32
  | .encCSR m _ _ _ => m &&& fieldMask .CSR == 0#32
  | .encCSRI m _ _ _ => m &&& fieldMask .CSRI == 0#32

/-- A well-formed request, under the default flag: the requests for which the source's round-trip is claimed (R113). -/
def Instr.wellFormed (i : Instr) : Bool := i.legal false && i.matchFree

end Sys2Proof
end

