-- ==== Sys2Proof/Decode.lean ====
section
/-! DEFINITION. Reading a request from bits, and writing one to bits.

The block "never decodes instructions" (00_scope.md R7) and parses nothing (30_encoding.md R76), so a request has no bits of its
own in the spec: this decoder is the target's, read backwards. It takes the word a request produces under the default match table
(R79), finds the named constructor whose mask and match it meets (R80), and recovers the operands with the extraction functions
(R67), which is what the round-trip is stated about (41_formats.md R113).

THE REQUEST IMAGE is the model's own (assumption 4): five bytes, the 32-bit word with the least significant byte first (the
delivery order of 20_memory.md R41) and then one selector byte. Selector 0 is a named constructor; selectors 1 to 9 are the nine
format encoders in the order J, R, S, I, I-shift, U, B, CSR, CSRI, whose match is the match-supplied bits of the word (R66). -/

namespace Sys2Proof

/-- Why bits are no request. -/
inductive DecodeError where
  /-- fewer than five bytes remain -/
  | truncated
  /-- the word meets the mask and match of no named constructor -/
  | noNamedConstructor (w : Word)
  /-- the selector names no format -/
  | unknownSelector (b : Byte)
  deriving DecidableEq, Repr

/-- The word meets the mask and default match of the mnemonic (R80). -/
def matchesRow (w : Word) (m : Mnemonic) : Bool := w &&& decodeMask m == defaultTable.get m

/-- The named request with the operands the extraction functions read from the word (R67). -/
def namedRequest (m : Mnemonic) (w : Word) : Instr :=
  match m with
  | .ld => .ld (rdOf w) (rs1Of w) (immIOf w)
  | .lw => .lw (rdOf w) (rs1Of w) (immIOf w)
  | .lh => .lh (rdOf w) (rs1Of w) (immIOf w)
  | .lb => .lb (rdOf w) (rs1Of w) (immIOf w)
  | .flw => .flw (rdOf w) (rs1Of w) (immIOf w)
  | .fld => .fld (rdOf w) (rs1Of w) (immIOf w)
  | .sd => .sd (rs1Of w) (rs2Of w) (immSOf w)
  | .sw => .sw (rs1Of w) (rs2Of w) (immSOf w)
  | .sh => .sh (rs1Of w) (rs2Of w) (immSOf w)
  | .sb => .sb (rs1Of w) (rs2Of w) (immSOf w)
  | .fsw => .fsw (rs1Of w) (rs2Of w) (immSOf w)
  | .fsd => .fsd (rs1Of w) (rs2Of w) (immSOf w)
  | .addi => .addi (rdOf w) (rs1Of w) (immIOf w)
  | .andi => .andi (rdOf w) (rs1Of w) (immIOf w)
  | .ori => .ori (rdOf w) (rs1Of w) (immIOf w)
  | .xori => .xori (rdOf w) (rs1Of w) (immIOf w)
  | .slli => .slli (rdOf w) (rs1Of w) (shamtOf w)
  | .srli => .srli (rdOf w) (rs1Of w) (shamtOf w)
  | .lui => .lui (rdOf w) (immUOf w)
  | .jal => .jal (rdOf w) (immJOf w)
  | .csrrw => .csrrw (rdOf w) (rs1Of w) (csrOf w)
  | .csrrs => .csrrs (rdOf w) (rs1Of w) (csrOf w)
  | .csrrc => .csrrc (rdOf w) (rs1Of w) (csrOf w)
  | .csrrwi => .csrrwi (rdOf w) (uimm5Of w) (csrOf w)
  | .csrrsi => .csrrsi (rdOf w) (uimm5Of w) (csrOf w)
  | .csrrci => .csrrci (rdOf w) (uimm5Of w) (csrOf w)
  | .ebreak => .ebreak
  | .cEbreak => .cEbreak
  | .dret => .dret
  | .fenceI => .fenceI

/-- The named request a 32-bit word stands for, by the default table. -/
def decodeNamed (w : Word) : Except DecodeError Instr :=
  match Mnemonic.all.find? (matchesRow w) with
  | some m => .ok (namedRequest m w)
  | none => .error (.noNamedConstructor w)

/-- The request a word stands for under a selector. -/
def decodeSelected (selector : Byte) (w : Word) : Except DecodeError Instr :=
  match selector.toNat with
  | 0 => decodeNamed w
  | 1 => .ok (.encJ (w &&& matchBits .J) (rdOf w) (immJOf w))
  | 2 => .ok (.encR (w &&& matchBits .R) (rdOf w) (rs1Of w) (rs2Of w))
  | 3 => .ok (.encS (w &&& matchBits .S) (rs1Of w) (rs2Of w) (immSOf w))
  | 4 => .ok (.encI (w &&& matchBits .I) (rdOf w) (rs1Of w) (immIOf w))
  | 5 => .ok (.encIshift (w &&& matchBits .Ishift) (rdOf w) (rs1Of w) (shamtOf w))
  | 6 => .ok (.encU (w &&& matchBits .U) (rdOf w) (immUOf w))
  | 7 => .ok (.encB (w &&& matchBits .B) (rs1Of w) (rs2Of w) (immBOf w))
  | 8 => .ok (.encCSR (w &&& matchBits .CSR) (rdOf w) (rs1Of w) (csrOf w))
  | 9 => .ok (.encCSRI (w &&& matchBits .CSRI) (rdOf w) (uimm5Of w) (csrOf w))
  | _ => .error (.unknownSelector selector)

/-- The first request of a byte sequence and the bytes after it, or the reason there is none. -/
def decode : List Byte → Except DecodeError (Instr × List Byte)
  | b0 :: b1 :: b2 :: b3 :: selector :: rest =>
    match decodeSelected selector (b3 ++ b2 ++ b1 ++ b0) with
    | .ok i => .ok (i, rest)
    | .error e => .error e
  | _ => .error .truncated

/-- The selector byte of a request's image. -/
def Instr.selector (i : Instr) : Byte :=
  match i with
  | .encJ _ _ _ => 1#8
  | .encR _ _ _ _ => 2#8
  | .encS _ _ _ _ => 3#8
  | .encI _ _ _ _ => 4#8
  | .encIshift _ _ _ _ => 5#8
  | .encU _ _ _ => 6#8
  | .encB _ _ _ _ => 7#8
  | .encCSR _ _ _ _ => 8#8
  | .encCSRI _ _ _ _ => 9#8
  | .ld _ _ _ => 0#8
  | .lw _ _ _ => 0#8
  | .lh _ _ _ => 0#8
  | .lb _ _ _ => 0#8
  | .flw _ _ _ => 0#8
  | .fld _ _ _ => 0#8
  | .sd _ _ _ => 0#8
  | .sw _ _ _ => 0#8
  | .sh _ _ _ => 0#8
  | .sb _ _ _ => 0#8
  | .fsw _ _ _ => 0#8
  | .fsd _ _ _ => 0#8
  | .addi _ _ _ => 0#8
  | .andi _ _ _ => 0#8
  | .ori _ _ _ => 0#8
  | .xori _ _ _ => 0#8
  | .slli _ _ _ => 0#8
  | .srli _ _ _ => 0#8
  | .lui _ _ => 0#8
  | .jal _ _ => 0#8
  | .csrrw _ _ _ => 0#8
  | .csrrs _ _ _ => 0#8
  | .csrrc _ _ _ => 0#8
  | .csrrwi _ _ _ => 0#8
  | .csrrsi _ _ _ => 0#8
  | .csrrci _ _ _ => 0#8
  | .ebreak => 0#8
  | .cEbreak => 0#8
  | .dret => 0#8
  | .fenceI => 0#8

/-- The 32-bit word of a request under the default table, by the layouts of R55 to R63: the placed operand fields and the match
pattern. -/
def encodeWord (i : Instr) : Word := i.layoutBits ||| i.matchIn defaultTable

/-- The image of a request: the four bytes of its word, least significant first, and its selector. -/
def encode (i : Instr) : List Byte :=
  let w := encodeWord i
  [w.extractLsb' 0 8, w.extractLsb' 8 8, w.extractLsb' 16 8, w.extractLsb' 24 8, i.selector]

/-- The five bytes of an image given as one number, bit 0 the least significant bit of the first byte. -/
def imageBytes (v : Nat) : List Byte :=
  [BitVec.ofNat 8 v, BitVec.ofNat 8 (v >>> 8), BitVec.ofNat 8 (v >>> 16), BitVec.ofNat 8 (v >>> 24), BitVec.ofNat 8 (v >>> 32)]

/-- The request the decoder reads from a table row's word: `nbits` bits numbered as spec/opcode_table.json numbers them, every bit
above them 0. -/
def decodeTableWord (nbits w : Nat) : Option Instr :=
  let v := w % 2 ^ nbits
  if v < 2 ^ 40 then
    match decode (imageBytes v) with
    | .ok (i, _) => some i
    | .error _ => none
  else none

end Sys2Proof
end

