-- ==== Sys2Proof/Machine/State.lean ====
section
/-! DEFINITION. The result type of a request (10_state.md R35, 60_exceptions.md R147), the machine's reasons to stop, and State.

The block has no architectural state (R21). State holds what the spec gives the block instead: its configuration (R32) and its
two ports, "no ports other than request and result" (R20). See assumptions 1 and 3. -/

namespace Sys2Proof.Machine

/-- The operand an `InvalidOperand` names (60_exceptions.md R147). -/
inductive Field where
  | rd | rs1 | rs2 | imm | shamt | csr
  deriving DecidableEq, Repr

/-- Why a check failed (R147; 90_conflicts.md C4). -/
inductive Reason where
  | range | alignment
  deriving DecidableEq, Repr

/-- The failure record `InvalidOperand(field, value, width, reason)` (R147). -/
structure InvalidOperand where
  /-- the offending operand -/
  field : Field
  /-- the operand exactly as given -/
  value : Int
  /-- the permitted width of 10_state.md R34 -/
  width : Nat
  /-- range or alignment -/
  reason : Reason
  deriving DecidableEq, Repr

/-- The one result of a request: a word, or the failure record with no word (R35, R149, R153). -/
inductive Result where
  | ok (w : Word)
  | invalidOperand (f : InvalidOperand)
  deriving DecidableEq, Repr

/-- How an encoder ends without a word: a failed operand check (R147), which is a result of the request, or the contract
failure of a primitive (R150), which is not. -/
inductive Stop where
  | invalidOperand (f : InvalidOperand)
  | contractViolation
  deriving DecidableEq, Repr

/-- A computation of the encoder that may end without a value. -/
abbrev Checked (α : Type) := Except Stop α

/-- The reasons for which the machine stops with a fault. -/
inductive Fault where
  /-- A bit-field primitive was called outside its precondition (40_primitives.md R83, 60_exceptions.md R150; treatment I5).
  Raised by `State.conclude` when an encoder's `bits` or `bit` answers so. Safe: the spec itself ends the request there, and
  no request reaches it (R85). -/
  | contractViolation
  deriving DecidableEq, Repr

/-- The reasons for which the machine gives a request no meaning. -/
inductive Refusal where
  /-- The request has no meaning in the model yet. Raised by no arm of `exec`: every request has its meaning. Safe. -/
  | notModelled (mnemonic : String)
  /-- The configuration breaks the premise of 10_state.md R33: "An ill-formed configuration is refused as a whole: the model
  has no meaning for it." Raised by `State.evaluate`. Safe: it errs toward unprovable (decision D8). -/
  | illFormedConfiguration
  deriving DecidableEq, Repr

/-- The machine: the block's configuration and what stands at its two ports. -/
structure State where
  /-- The configuration (R32). No request writes it; it stands here so that every statement holds for every configuration. -/
  config : Config
  /-- The request port: requests submitted and not yet evaluated, oldest first (R20, R47). The model's own field. -/
  requests : List Instr
  /-- The result port: the results returned, oldest first (R20, R35). The model's own field: the block never reads it. -/
  results : List Result
  deriving DecidableEq, Repr

/-- After reset: "reset sets nothing" (70_reset_and_hazards.md R165). The configuration is the default one of 00_scope.md R11 and
both ports are empty (R166: the block runs only when a request arrives). -/
def State.reset : State where
  config := Config.standard
  requests := []
  results := []

end Sys2Proof.Machine
end

