-- ==== Sys2Proof/Machine/Operands.lean ====
section
/-! DEFINITION. The operand checks every encoder shares (41_formats.md R87 to R90), over `require` (00_scope.md R15). -/

namespace Sys2Proof.Machine

/-- `require(cond, field, value, width, reason)`: go on if `cond` holds, else end with the failure record (R15, R147). -/
def require (cond : Prop) [Decidable cond] (field : Field) (value : Int) (width : Nat) (reason : Reason) : Checked Unit :=
  if cond then .ok () else .error (.invalidOperand ⟨field, value, width, reason⟩)

/-- `checkReg(name, r)`: a register index is 0..31; index 0 is like any other (R87, 10_state.md R23). -/
def checkReg (field : Field) (r : Int) : Checked Unit := require (0 ≤ r ∧ r ≤ 31) field r REGW .range

/-- The largest 12-bit immediate accepted: 4095 with the flag, 2047 without (R88, decision D3). -/
def imm12Top (accepts : Bool) : Int := if accepts then 4095 else 2047

/-- `checkImm12(v)` (R88). -/
def checkImm12 (accepts : Bool) (v : Int) : Checked Unit :=
  require (-2048 ≤ v ∧ v ≤ imm12Top accepts) .imm v IMM12 .range

/-- `checkSigned(name, v, N)` (R89). -/
def checkSigned (field : Field) (v : Int) (n : Nat) : Checked Unit :=
  require (-(2 ^ (n - 1)) ≤ v ∧ v ≤ 2 ^ (n - 1) - 1) field v n .range

/-- `checkUnsigned(name, v, N)` (R89). -/
def checkUnsigned (field : Field) (v : Int) (n : Nat) : Checked Unit :=
  require (0 ≤ v ∧ v ≤ 2 ^ n - 1) field v n .range

/-- `checkEven(v, N)`, with the non-negative remainder; field `imm`, reason `alignment` (R90). -/
def checkEven (v : Int) (n : Nat) : Checked Unit := require (v % 2 = 0) .imm v n .alignment

/-- The shift-amount check of the I-shift encoder: 0..63, field `shamt`, width 6 (R99, decision D16). -/
def checkShamt (v : Int) : Checked Unit := require (0 ≤ v ∧ v < (SHAMT_LIMIT : Int)) .shamt v SHAMTW .range

end Sys2Proof.Machine
end

