-- ==== Sys2Proof/Machine/Primitives.lean ====
section
/-! DEFINITION. Layer 1: the bit-field primitives (40_primitives.md R81 to R83), and the 32-bit pattern of an operand (00_scope.md
R13, 41_formats.md R94). -/

namespace Sys2Proof.Machine

/-- `u32(v) = v mod 2^32`, the two's-complement pattern of an operand (00_scope.md R13). -/
def u32 (v : Int) : Word := BitVec.ofInt 32 v

/-- `bits(value, hi, lo) = (value >> lo) mod 2^(hi − lo + 1)`, right-aligned in a 32-bit pattern (R81). A call with `lo > hi` or
`hi ≥ 32` is the contract failure of R83. -/
def bits (value : Word) (hi lo : Nat) : Checked Word :=
  if lo ≤ hi ∧ hi < 32 then
    .ok (BitVec.ofNat 32 ((value.toNat >>> lo) % 2 ^ (hi - lo + 1)))
  else .error .contractViolation

/-- `bit(value, b) = bits(value, b, b)` (R82). -/
def bit (value : Word) (b : Nat) : Checked Word := bits value b b

end Sys2Proof.Machine
end

