-- ==== Sys2Proof/Machine/Formats.lean ====
section
/-! DEFINITION. Layer 2: the nine format encoders, each the pseudocode of 41_formats.md R95 to R103. All checks of an encoder run
before any word is computed, in the order of R91, and the first failing one ends the request (R86). The word is the OR of the
placed fields and the match pattern, which is not checked (R92, decision D7). -/

namespace Sys2Proof.Machine

/-- `enc_J(match, rd, imm)` (R95). -/
def assembleJ (m : Word) (rd imm : Int) : Checked Word := do
  checkReg .rd rd
  checkEven imm IMM_J
  checkSigned .imm imm IMM_J
  let p := u32 imm
  let a ← bit p 20
  let b ← bits p 10 1
  let c ← bit p 11
  let d ← bits p 19 12
  return (a <<< 31) ||| (b <<< 21) ||| (c <<< 20) ||| (d <<< 12) ||| (u32 rd <<< 7) ||| m

/-- `enc_R(match, rd, rs1, rs2)` (R96). -/
def assembleR (m : Word) (rd rs1 rs2 : Int) : Checked Word := do
  checkReg .rd rd
  checkReg .rs1 rs1
  checkReg .rs2 rs2
  return (u32 rs2 <<< 20) ||| (u32 rs1 <<< 15) ||| (u32 rd <<< 7) ||| m

/-- `enc_S(match, rs1, rs2, imm)` (R97). -/
def assembleS (accepts : Bool) (m : Word) (rs1 rs2 imm : Int) : Checked Word := do
  checkReg .rs1 rs1
  checkReg .rs2 rs2
  checkImm12 accepts imm
  let p := u32 imm
  let a ← bits p 11 5
  let b ← bits p 4 0
  return (a <<< 25) ||| (u32 rs2 <<< 20) ||| (u32 rs1 <<< 15) ||| (b <<< 7) ||| m

/-- `enc_I(match, rd, rs1, imm)` (R98). -/
def assembleI (accepts : Bool) (m : Word) (rd rs1 imm : Int) : Checked Word := do
  checkReg .rd rd
  checkReg .rs1 rs1
  checkImm12 accepts imm
  let p := u32 imm
  let a ← bits p 11 0
  return (a <<< 20) ||| (u32 rs1 <<< 15) ||| (u32 rd <<< 7) ||| m

/-- `enc_Ishift(match, rd, rs1, shamt)`: the general 12-bit check on the shift amount first, then the shift check (R99, R70;
90_conflicts.md C5). -/
def assembleIshift (accepts : Bool) (m : Word) (rd rs1 shamt : Int) : Checked Word := do
  checkReg .rd rd
  checkReg .rs1 rs1
  checkImm12 accepts shamt
  checkShamt shamt
  let a ← bits (u32 shamt) 11 0
  return (a <<< 20) ||| (u32 rs1 <<< 15) ||| (u32 rd <<< 7) ||| m

/-- `enc_U(match, rd, imm)` (R100). -/
def assembleU (m : Word) (rd imm : Int) : Checked Word := do
  checkReg .rd rd
  checkUnsigned .imm imm IMM_U
  let a ← bits (u32 imm) 19 0
  return (a <<< 12) ||| (u32 rd <<< 7) ||| m

/-- `enc_B(match, rs1, rs2, imm)` (R101). -/
def assembleB (m : Word) (rs1 rs2 imm : Int) : Checked Word := do
  checkReg .rs1 rs1
  checkReg .rs2 rs2
  checkEven imm IMM_B
  checkSigned .imm imm IMM_B
  let p := u32 imm
  let a ← bit p 12
  let b ← bits p 10 5
  let c ← bits p 4 1
  let d ← bit p 11
  return (a <<< 31) ||| (b <<< 25) ||| (u32 rs2 <<< 20) ||| (u32 rs1 <<< 15) ||| (c <<< 8) ||| (d <<< 7) ||| m

/-- `enc_CSR(match, rd, rs1, csr)`: the csr is a raw field, no value check beyond width (R102). -/
def assembleCSR (m : Word) (rd rs1 csr : Int) : Checked Word := do
  checkReg .rd rd
  checkReg .rs1 rs1
  checkUnsigned .csr csr CSRW
  return (u32 csr <<< 20) ||| (u32 rs1 <<< 15) ||| (u32 rd <<< 7) ||| m

/-- `enc_CSRI(match, rd, imm, csr)`: the immediate is an unsigned 5-bit value, not a register (R103, 30_encoding.md R71). -/
def assembleCSRI (m : Word) (rd imm csr : Int) : Checked Word := do
  checkReg .rd rd
  checkUnsigned .imm imm IMM_CSRI
  checkUnsigned .csr csr CSRW
  let a ← bits (u32 imm) 4 0
  return (u32 csr <<< 20) ||| (a <<< 15) ||| (u32 rd <<< 7) ||| m

end Sys2Proof.Machine
end

