-- ==== Sys2Proof/Machine/Ops.lean ====
section
/-! DEFINITION. The operations on the two ports that every meaning shares, and the one way a request ends.

The block has no registers and no memory (10_state.md R21, 20_memory.md R37) and no trap mechanism (60_exceptions.md R155, R156):
there is no exception entry and no return to define. Its only failure is a RESULT, `InvalidOperand`, delivered by the same
operation as a word (R149, R153). -/

namespace Sys2Proof.Machine

/-- Return a result: it becomes the newest at the result port, and nothing else changes (R35 "with no other observable effect",
R149 "a failure changes nothing and leaves nothing behind"). -/
def State.deliver (s : State) (r : Result) : State := { s with results := s.results ++ [r] }

/-- End a request with what its encoder answered: a word or an `InvalidOperand` is the result of the request (R35, R153); a
primitive's contract failure is a fault with no result (R150). -/
def State.conclude (s : State) (answer : Checked Word) : Host.Outcome State Fault Refusal :=
  match answer with
  | .ok w => .next (s.deliver (.ok w))
  | .error (.invalidOperand f) => .next (s.deliver (.invalidOperand f))
  | .error .contractViolation => .fault .contractViolation

/-- Evaluate one request under the configuration. An ill-formed configuration is refused as a whole (10_state.md R33). -/
def State.evaluate (s : State) (encoder : Config → Checked Word) : Host.Outcome State Fault Refusal :=
  if s.config.wellFormed then s.conclude (encoder s.config) else .refused .illFormedConfiguration

end Sys2Proof.Machine
end

