-- ==== Sys2Proof/Machine/AluImm.lean ====
section
/-! DEFINITION. The immediate ALU constructors bind `enc_I`, the shifts `enc_Ishift` (44_alu_imm.md R129 to R134). -/

namespace Sys2Proof.Machine

/-- `addi(rd, rs1, imm)`: `return enc_I(MATCH[addi], rd, rs1, imm)` (R129). -/
def execAddi (rd rs1 imm : Int) (s : State) : Host.Outcome State Fault Refusal :=
  s.evaluate fun c => assembleI c.imm12AcceptsUnsignedAlias c.table.addi rd rs1 imm

/-- `andi(rd, rs1, imm)`: `return enc_I(MATCH[andi], rd, rs1, imm)` (R130). -/
def execAndi (rd rs1 imm : Int) (s : State) : Host.Outcome State Fault Refusal :=
  s.evaluate fun c => assembleI c.imm12AcceptsUnsignedAlias c.table.andi rd rs1 imm

/-- `ori(rd, rs1, imm)`: `return enc_I(MATCH[ori], rd, rs1, imm)` (R131). -/
def execOri (rd rs1 imm : Int) (s : State) : Host.Outcome State Fault Refusal :=
  s.evaluate fun c => assembleI c.imm12AcceptsUnsignedAlias c.table.ori rd rs1 imm

/-- `xori(rd, rs1, imm)`: `return enc_I(MATCH[xori], rd, rs1, imm)` (R132). -/
def execXori (rd rs1 imm : Int) (s : State) : Host.Outcome State Fault Refusal :=
  s.evaluate fun c => assembleI c.imm12AcceptsUnsignedAlias c.table.xori rd rs1 imm

/-- `slli(rd, rs1, shamt)`: `return enc_Ishift(MATCH[slli], rd, rs1, shamt)` (R133). -/
def execSlli (rd rs1 shamt : Int) (s : State) : Host.Outcome State Fault Refusal :=
  s.evaluate fun c => assembleIshift c.imm12AcceptsUnsignedAlias c.table.slli rd rs1 shamt

/-- `srli(rd, rs1, shamt)`: `return enc_Ishift(MATCH[srli], rd, rs1, shamt)` (R134). -/
def execSrli (rd rs1 shamt : Int) (s : State) : Host.Outcome State Fault Refusal :=
  s.evaluate fun c => assembleIshift c.imm12AcceptsUnsignedAlias c.table.srli rd rs1 shamt

end Sys2Proof.Machine
end

