-- ==== Sys2Proof/Machine/Csr.lean ====
section
/-! DEFINITION. The control/status-register constructors: the register forms bind `enc_CSR`, the immediate forms `enc_CSRI` (46_csr.md R137 to
R142). No existence, access or privilege check is made (10_state.md R30, 60_exceptions.md R159). -/

namespace Sys2Proof.Machine

/-- `csrrw(rd, rs1, csr)`: `return enc_CSR(MATCH[csrrw], rd, rs1, csr)` (R137). -/
def execCsrrw (rd rs1 csr : Int) (s : State) : Host.Outcome State Fault Refusal :=
  s.evaluate fun c => assembleCSR c.table.csrrw rd rs1 csr

/-- `csrrs(rd, rs1, csr)`: `return enc_CSR(MATCH[csrrs], rd, rs1, csr)` (R138). -/
def execCsrrs (rd rs1 csr : Int) (s : State) : Host.Outcome State Fault Refusal :=
  s.evaluate fun c => assembleCSR c.table.csrrs rd rs1 csr

/-- `csrrc(rd, rs1, csr)`: `return enc_CSR(MATCH[csrrc], rd, rs1, csr)` (R139). -/
def execCsrrc (rd rs1 csr : Int) (s : State) : Host.Outcome State Fault Refusal :=
  s.evaluate fun c => assembleCSR c.table.csrrc rd rs1 csr

/-- `csrrwi(rd, imm, csr)`: `return enc_CSRI(MATCH[csrrwi], rd, imm, csr)` (R140). -/
def execCsrrwi (rd imm csr : Int) (s : State) : Host.Outcome State Fault Refusal :=
  s.evaluate fun c => assembleCSRI c.table.csrrwi rd imm csr

/-- `csrrsi(rd, imm, csr)`: `return enc_CSRI(MATCH[csrrsi], rd, imm, csr)` (R141). -/
def execCsrrsi (rd imm csr : Int) (s : State) : Host.Outcome State Fault Refusal :=
  s.evaluate fun c => assembleCSRI c.table.csrrsi rd imm csr

/-- `csrrci(rd, imm, csr)`: `return enc_CSRI(MATCH[csrrci], rd, imm, csr)` (R142). -/
def execCsrrci (rd imm csr : Int) (s : State) : Host.Outcome State Fault Refusal :=
  s.evaluate fun c => assembleCSRI c.table.csrrci rd imm csr

end Sys2Proof.Machine
end

