-- ==== Sys2Proof/Machine/Fixed.lean ====
section
/-! DEFINITION. The zero-operand constructors: each returns `MATCH[m]`, runs no check and never fails (47_fixed.md R143 to R146, 30_encoding.md
R50). -/

namespace Sys2Proof.Machine

/-- `ebreak()`: `return MATCH[ebreak]` (R143). -/
def execEbreak (s : State) : Host.Outcome State Fault Refusal :=
  s.evaluate fun c => .ok c.table.ebreak

/-- `c.ebreak()`: `return MATCH[c.ebreak]` (R144). -/
def execCEbreak (s : State) : Host.Outcome State Fault Refusal :=
  s.evaluate fun c => .ok c.table.cEbreak

/-- `dret()`: `return MATCH[dret]` (R145). -/
def execDret (s : State) : Host.Outcome State Fault Refusal :=
  s.evaluate fun c => .ok c.table.dret

/-- `fence.i()`: `return MATCH[fence.i]` (R146). -/
def execFenceI (s : State) : Host.Outcome State Fault Refusal :=
  s.evaluate fun c => .ok c.table.fenceI

end Sys2Proof.Machine
end

