-- ==== Sys2Proof/Machine/FormatRequests.lean ====
section
/-! DEFINITION. The format-encoder requests `Fmt(F, match, ops)` with the caller's own match pattern, any 32 bits of it
(30_encoding.md R47, R72; 41_formats.md R95 to R103). The R and B formats are reached only here (decision D17). -/

namespace Sys2Proof.Machine

/-- `enc_J(match, rd, imm)` (R95). -/
def execEncJ (m : Word) (rd imm : Int) (s : State) : Host.Outcome State Fault Refusal :=
  s.evaluate fun _ => assembleJ m rd imm

/-- `enc_R(match, rd, rs1, rs2)` (R96). -/
def execEncR (m : Word) (rd rs1 rs2 : Int) (s : State) : Host.Outcome State Fault Refusal :=
  s.evaluate fun _ => assembleR m rd rs1 rs2

/-- `enc_S(match, rs1, rs2, imm)` (R97). -/
def execEncS (m : Word) (rs1 rs2 imm : Int) (s : State) : Host.Outcome State Fault Refusal :=
  s.evaluate fun c => assembleS c.imm12AcceptsUnsignedAlias m rs1 rs2 imm

/-- `enc_I(match, rd, rs1, imm)` (R98). -/
def execEncI (m : Word) (rd rs1 imm : Int) (s : State) : Host.Outcome State Fault Refusal :=
  s.evaluate fun c => assembleI c.imm12AcceptsUnsignedAlias m rd rs1 imm

/-- `enc_Ishift(match, rd, rs1, shamt)` (R99). -/
def execEncIshift (m : Word) (rd rs1 shamt : Int) (s : State) : Host.Outcome State Fault Refusal :=
  s.evaluate fun c => assembleIshift c.imm12AcceptsUnsignedAlias m rd rs1 shamt

/-- `enc_U(match, rd, imm)` (R100). -/
def execEncU (m : Word) (rd imm : Int) (s : State) : Host.Outcome State Fault Refusal :=
  s.evaluate fun _ => assembleU m rd imm

/-- `enc_B(match, rs1, rs2, imm)` (R101). -/
def execEncB (m : Word) (rs1 rs2 imm : Int) (s : State) : Host.Outcome State Fault Refusal :=
  s.evaluate fun _ => assembleB m rs1 rs2 imm

/-- `enc_CSR(match, rd, rs1, csr)` (R102). -/
def execEncCSR (m : Word) (rd rs1 csr : Int) (s : State) : Host.Outcome State Fault Refusal :=
  s.evaluate fun _ => assembleCSR m rd rs1 csr

/-- `enc_CSRI(match, rd, imm, csr)` (R103). -/
def execEncCSRI (m : Word) (rd imm csr : Int) (s : State) : Host.Outcome State Fault Refusal :=
  s.evaluate fun _ => assembleCSRI m rd imm csr

end Sys2Proof.Machine
end

