-- ==== Sys2Proof/Machine/Loads.lean ====
section
/-! DEFINITION. The load constructors: each binds `enc_I` to its match constant and adds no check of its own (42_loads.md R117 to R122). The
block moves no data (20_memory.md R38); the register of `flw` and `fld` is checked like any other (10_state.md R25). -/

namespace Sys2Proof.Machine

/-- `ld(rd, rs1, imm)`: `return enc_I(MATCH[ld], rd, rs1, imm)` (R117). -/
def execLd (rd rs1 imm : Int) (s : State) : Host.Outcome State Fault Refusal :=
  s.evaluate fun c => assembleI c.imm12AcceptsUnsignedAlias c.table.ld rd rs1 imm

/-- `lw(rd, rs1, imm)`: `return enc_I(MATCH[lw], rd, rs1, imm)` (R118). -/
def execLw (rd rs1 imm : Int) (s : State) : Host.Outcome State Fault Refusal :=
  s.evaluate fun c => assembleI c.imm12AcceptsUnsignedAlias c.table.lw rd rs1 imm

/-- `lh(rd, rs1, imm)`: `return enc_I(MATCH[lh], rd, rs1, imm)` (R119). -/
def execLh (rd rs1 imm : Int) (s : State) : Host.Outcome State Fault Refusal :=
  s.evaluate fun c => assembleI c.imm12AcceptsUnsignedAlias c.table.lh rd rs1 imm

/-- `lb(rd, rs1, imm)`: `return enc_I(MATCH[lb], rd, rs1, imm)` (R120). -/
def execLb (rd rs1 imm : Int) (s : State) : Host.Outcome State Fault Refusal :=
  s.evaluate fun c => assembleI c.imm12AcceptsUnsignedAlias c.table.lb rd rs1 imm

/-- `flw(rd, rs1, imm)`: `return enc_I(MATCH[flw], rd, rs1, imm)` (R121). -/
def execFlw (rd rs1 imm : Int) (s : State) : Host.Outcome State Fault Refusal :=
  s.evaluate fun c => assembleI c.imm12AcceptsUnsignedAlias c.table.flw rd rs1 imm

/-- `fld(rd, rs1, imm)`: `return enc_I(MATCH[fld], rd, rs1, imm)` (R122). -/
def execFld (rd rs1 imm : Int) (s : State) : Host.Outcome State Fault Refusal :=
  s.evaluate fun c => assembleI c.imm12AcceptsUnsignedAlias c.table.fld rd rs1 imm

end Sys2Proof.Machine
end

