-- ==== Sys2Proof/Machine/Stores.lean ====
section
/-! DEFINITION. The store constructors: each binds `enc_S` to its match constant (43_stores.md R123 to R128). The block moves no data
(20_memory.md R38); the data-source index of `fsw` and `fsd` is checked like any other (10_state.md R25). -/

namespace Sys2Proof.Machine

/-- `sd(rs1, rs2, imm)`: `return enc_S(MATCH[sd], rs1, rs2, imm)` (R123). -/
def execSd (rs1 rs2 imm : Int) (s : State) : Host.Outcome State Fault Refusal :=
  s.evaluate fun c => assembleS c.imm12AcceptsUnsignedAlias c.table.sd rs1 rs2 imm

/-- `sw(rs1, rs2, imm)`: `return enc_S(MATCH[sw], rs1, rs2, imm)` (R124). -/
def execSw (rs1 rs2 imm : Int) (s : State) : Host.Outcome State Fault Refusal :=
  s.evaluate fun c => assembleS c.imm12AcceptsUnsignedAlias c.table.sw rs1 rs2 imm

/-- `sh(rs1, rs2, imm)`: `return enc_S(MATCH[sh], rs1, rs2, imm)` (R125). -/
def execSh (rs1 rs2 imm : Int) (s : State) : Host.Outcome State Fault Refusal :=
  s.evaluate fun c => assembleS c.imm12AcceptsUnsignedAlias c.table.sh rs1 rs2 imm

/-- `sb(rs1, rs2, imm)`: `return enc_S(MATCH[sb], rs1, rs2, imm)` (R126). -/
def execSb (rs1 rs2 imm : Int) (s : State) : Host.Outcome State Fault Refusal :=
  s.evaluate fun c => assembleS c.imm12AcceptsUnsignedAlias c.table.sb rs1 rs2 imm

/-- `fsw(rs1, rs2, imm)`: `return enc_S(MATCH[fsw], rs1, rs2, imm)` (R127). -/
def execFsw (rs1 rs2 imm : Int) (s : State) : Host.Outcome State Fault Refusal :=
  s.evaluate fun c => assembleS c.imm12AcceptsUnsignedAlias c.table.fsw rs1 rs2 imm

/-- `fsd(rs1, rs2, imm)`: `return enc_S(MATCH[fsd], rs1, rs2, imm)` (R128). -/
def execFsd (rs1 rs2 imm : Int) (s : State) : Host.Outcome State Fault Refusal :=
  s.evaluate fun c => assembleS c.imm12AcceptsUnsignedAlias c.table.fsd rs1 rs2 imm

end Sys2Proof.Machine
end

