-- ==== Sys2Proof/Machine/UpperJump.lean ====
section
/-! DEFINITION. The upper-immediate load binds `enc_U`, the unconditional jump `enc_J` (45_upper_jump.md R135, R136). -/

namespace Sys2Proof.Machine

/-- `lui(rd, imm)`: `return enc_U(MATCH[lui], rd, imm)` (R135). -/
def execLui (rd imm : Int) (s : State) : Host.Outcome State Fault Refusal :=
  s.evaluate fun c => assembleU c.table.lui rd imm

/-- `jal(rd, imm)`: `return enc_J(MATCH[jal], rd, imm)` (R136). -/
def execJal (rd imm : Int) (s : State) : Host.Outcome State Fault Refusal :=
  s.evaluate fun c => assembleJ c.table.jal rd imm

end Sys2Proof.Machine
end

