-- ==== Sys2Proof/Machine/Dispatch.lean ====
section
/-! DEFINITION. The instruction-constructor multiplexer (30_encoding.md R50): one arm per request, each one call of its meaning. -/

namespace Sys2Proof.Machine

def exec (i : Instr) (s : State) : Host.Outcome State Fault Refusal :=
  match i with
  | .ld rd rs1 imm => Sys2Proof.Machine.execLd rd rs1 imm s
  | .lw rd rs1 imm => Sys2Proof.Machine.execLw rd rs1 imm s
  | .lh rd rs1 imm => Sys2Proof.Machine.execLh rd rs1 imm s
  | .lb rd rs1 imm => Sys2Proof.Machine.execLb rd rs1 imm s
  | .flw rd rs1 imm => Sys2Proof.Machine.execFlw rd rs1 imm s
  | .fld rd rs1 imm => Sys2Proof.Machine.execFld rd rs1 imm s
  | .sd rs1 rs2 imm => Sys2Proof.Machine.execSd rs1 rs2 imm s
  | .sw rs1 rs2 imm => Sys2Proof.Machine.execSw rs1 rs2 imm s
  | .sh rs1 rs2 imm => Sys2Proof.Machine.execSh rs1 rs2 imm s
  | .sb rs1 rs2 imm => Sys2Proof.Machine.execSb rs1 rs2 imm s
  | .fsw rs1 rs2 imm => Sys2Proof.Machine.execFsw rs1 rs2 imm s
  | .fsd rs1 rs2 imm => Sys2Proof.Machine.execFsd rs1 rs2 imm s
  | .addi rd rs1 imm => Sys2Proof.Machine.execAddi rd rs1 imm s
  | .andi rd rs1 imm => Sys2Proof.Machine.execAndi rd rs1 imm s
  | .ori rd rs1 imm => Sys2Proof.Machine.execOri rd rs1 imm s
  | .xori rd rs1 imm => Sys2Proof.Machine.execXori rd rs1 imm s
  | .slli rd rs1 shamt => Sys2Proof.Machine.execSlli rd rs1 shamt s
  | .srli rd rs1 shamt => Sys2Proof.Machine.execSrli rd rs1 shamt s
  | .lui rd imm => Sys2Proof.Machine.execLui rd imm s
  | .jal rd imm => Sys2Proof.Machine.execJal rd imm s
  | .csrrw rd rs1 csr => Sys2Proof.Machine.execCsrrw rd rs1 csr s
  | .csrrs rd rs1 csr => Sys2Proof.Machine.execCsrrs rd rs1 csr s
  | .csrrc rd rs1 csr => Sys2Proof.Machine.execCsrrc rd rs1 csr s
  | .csrrwi rd imm csr => Sys2Proof.Machine.execCsrrwi rd imm csr s
  | .csrrsi rd imm csr => Sys2Proof.Machine.execCsrrsi rd imm csr s
  | .csrrci rd imm csr => Sys2Proof.Machine.execCsrrci rd imm csr s
  | .ebreak => Sys2Proof.Machine.execEbreak s
  | .cEbreak => Sys2Proof.Machine.execCEbreak s
  | .dret => Sys2Proof.Machine.execDret s
  | .fenceI => Sys2Proof.Machine.execFenceI s
  | .encJ m rd imm => Sys2Proof.Machine.execEncJ m rd imm s
  | .encR m rd rs1 rs2 => Sys2Proof.Machine.execEncR m rd rs1 rs2 s
  | .encS m rs1 rs2 imm => Sys2Proof.Machine.execEncS m rs1 rs2 imm s
  | .encI m rd rs1 imm => Sys2Proof.Machine.execEncI m rd rs1 imm s
  | .encIshift m rd rs1 shamt => Sys2Proof.Machine.execEncIshift m rd rs1 shamt s
  | .encU m rd imm => Sys2Proof.Machine.execEncU m rd imm s
  | .encB m rs1 rs2 imm => Sys2Proof.Machine.execEncB m rs1 rs2 imm s
  | .encCSR m rd rs1 csr => Sys2Proof.Machine.execEncCSR m rd rs1 csr s
  | .encCSRI m rd imm csr => Sys2Proof.Machine.execEncCSRI m rd imm csr s

end Sys2Proof.Machine
end

