-- ==== Sys2Proof/Machine/Step.lean ====
section
/-! DEFINITION. One step: the block evaluates the oldest request at its port. It "runs only when a request arrives"
(70_reset_and_hazards.md R166): with none, a step changes nothing (assumption 5). -/

namespace Sys2Proof.Machine

/-- Take the oldest request from the request port and evaluate it; each request gives exactly one result (10_state.md R20, R35). -/
def step (s : State) : Host.Outcome State Fault Refusal :=
  match s.requests with
  | [] => .next s
  | i :: rest => exec i { s with requests := rest }

/-- The state with the request of a table word placed in front of the request port, where the next step takes it. Where the
decoder reads no request there is nothing to submit, and the state is unchanged. -/
def State.withFetchWord (s : State) (nbits w : Nat) : State :=
  match decodeTableWord nbits w with
  | some i => { s with requests := i :: s.requests }
  | none => s

end Sys2Proof.Machine
end

