-- ==== Sys2Proof/Safety.lean ====
section
/-! DEFINITION. The vocabulary of the statements: the result each request must have (10_state.md R20 `encode : Config → Request →
Result`, read off the domains of R34, the layouts of 30_encoding.md R55 to R63 and the check order of 41_formats.md R91), the
causes of failure (60_exceptions.md R148), and the invariant of the machine.

Nothing here is used by the machine: `exec` follows the pseudocode of 41_formats.md R95 to R103 through Machine/Formats.lean. -/

namespace Sys2Proof.Machine

/-- The failure of a register index out of 0..31 (R87). -/
def badReg (field : Field) (r : Int) : Result := .invalidOperand ⟨field, r, 5, .range⟩

/-- The result of `enc_J` (R95, layout R55). -/
def expectedJ (m : Word) (rd imm : Int) : Result :=
  if regLegal rd = false then badReg .rd rd
  else if imm % 2 ≠ 0 then .invalidOperand ⟨.imm, imm, 21, .alignment⟩
  else if immJLegal imm = false then .invalidOperand ⟨.imm, imm, 21, .range⟩
  else .ok (layoutJ rd imm ||| m)

/-- The result of `enc_R` (R96, layout R56). -/
def expectedR (m : Word) (rd rs1 rs2 : Int) : Result :=
  if regLegal rd = false then badReg .rd rd
  else if regLegal rs1 = false then badReg .rs1 rs1
  else if regLegal rs2 = false then badReg .rs2 rs2
  else .ok (layoutR rd rs1 rs2 ||| m)

/-- The result of `enc_S` (R97, layout R57). -/
def expectedS (accepts : Bool) (m : Word) (rs1 rs2 imm : Int) : Result :=
  if regLegal rs1 = false then badReg .rs1 rs1
  else if regLegal rs2 = false then badReg .rs2 rs2
  else if imm12Legal accepts imm = false then .invalidOperand ⟨.imm, imm, 12, .range⟩
  else .ok (layoutS rs1 rs2 imm ||| m)

/-- The result of `enc_I` (R98, layout R58). -/
def expectedI (accepts : Bool) (m : Word) (rd rs1 imm : Int) : Result :=
  if regLegal rd = false then badReg .rd rd
  else if regLegal rs1 = false then badReg .rs1 rs1
  else if imm12Legal accepts imm = false then .invalidOperand ⟨.imm, imm, 12, .range⟩
  else .ok (layoutI rd rs1 imm ||| m)

/-- The result of `enc_Ishift` (R99, layout R59). -/
def expectedIshift (accepts : Bool) (m : Word) (rd rs1 shamt : Int) : Result :=
  if regLegal rd = false then badReg .rd rd
  else if regLegal rs1 = false then badReg .rs1 rs1
  else if imm12Legal accepts shamt = false then .invalidOperand ⟨.imm, shamt, 12, .range⟩
  else if shamtLegal shamt = false then .invalidOperand ⟨.shamt, shamt, 6, .range⟩
  else .ok (layoutIshift rd rs1 shamt ||| m)

/-- The result of `enc_U` (R100, layout R60). -/
def expectedU (m : Word) (rd imm : Int) : Result :=
  if regLegal rd = false then badReg .rd rd
  else if immULegal imm = false then .invalidOperand ⟨.imm, imm, 20, .range⟩
  else .ok (layoutU rd imm ||| m)

/-- The result of `enc_B` (R101, layout R61). -/
def expectedB (m : Word) (rs1 rs2 imm : Int) : Result :=
  if regLegal rs1 = false then badReg .rs1 rs1
  else if regLegal rs2 = false then badReg .rs2 rs2
  else if imm % 2 ≠ 0 then .invalidOperand ⟨.imm, imm, 13, .alignment⟩
  else if immBLegal imm = false then .invalidOperand ⟨.imm, imm, 13, .range⟩
  else .ok (layoutB rs1 rs2 imm ||| m)

/-- The result of `enc_CSR` (R102, layout R62). -/
def expectedCSR (m : Word) (rd rs1 csr : Int) : Result :=
  if regLegal rd = false then badReg .rd rd
  else if regLegal rs1 = false then badReg .rs1 rs1
  else if csrLegal csr = false then .invalidOperand ⟨.csr, csr, 12, .range⟩
  else .ok (layoutCSR rd rs1 csr ||| m)

/-- The result of `enc_CSRI` (R103, layout R63). -/
def expectedCSRI (m : Word) (rd imm csr : Int) : Result :=
  if regLegal rd = false then badReg .rd rd
  else if uimm5Legal imm = false then .invalidOperand ⟨.imm, imm, 5, .range⟩
  else if csrLegal csr = false then .invalidOperand ⟨.csr, csr, 12, .range⟩
  else .ok (layoutCSRI rd imm csr ||| m)

/-- `encode : Config → Request → Result` (R20): the result of a request under a configuration (R50 for the named ones). -/
def expected (c : Config) (i : Instr) : Result :=
  match i with
  | .ld rd rs1 imm => expectedI c.imm12AcceptsUnsignedAlias c.table.ld rd rs1 imm
  | .lw rd rs1 imm => expectedI c.imm12AcceptsUnsignedAlias c.table.lw rd rs1 imm
  | .lh rd rs1 imm => expectedI c.imm12AcceptsUnsignedAlias c.table.lh rd rs1 imm
  | .lb rd rs1 imm => expectedI c.imm12AcceptsUnsignedAlias c.table.lb rd rs1 imm
  | .flw rd rs1 imm => expectedI c.imm12AcceptsUnsignedAlias c.table.flw rd rs1 imm
  | .fld rd rs1 imm => expectedI c.imm12AcceptsUnsignedAlias c.table.fld rd rs1 imm
  | .sd rs1 rs2 imm => expectedS c.imm12AcceptsUnsignedAlias c.table.sd rs1 rs2 imm
  | .sw rs1 rs2 imm => expectedS c.imm12AcceptsUnsignedAlias c.table.sw rs1 rs2 imm
  | .sh rs1 rs2 imm => expectedS c.imm12AcceptsUnsignedAlias c.table.sh rs1 rs2 imm
  | .sb rs1 rs2 imm => expectedS c.imm12AcceptsUnsignedAlias c.table.sb rs1 rs2 imm
  | .fsw rs1 rs2 imm => expectedS c.imm12AcceptsUnsignedAlias c.table.fsw rs1 rs2 imm
  | .fsd rs1 rs2 imm => expectedS c.imm12AcceptsUnsignedAlias c.table.fsd rs1 rs2 imm
  | .addi rd rs1 imm => expectedI c.imm12AcceptsUnsignedAlias c.table.addi rd rs1 imm
  | .andi rd rs1 imm => expectedI c.imm12AcceptsUnsignedAlias c.table.andi rd rs1 imm
  | .ori rd rs1 imm => expectedI c.imm12AcceptsUnsignedAlias c.table.ori rd rs1 imm
  | .xori rd rs1 imm => expectedI c.imm12AcceptsUnsignedAlias c.table.xori rd rs1 imm
  | .slli rd rs1 shamt => expectedIshift c.imm12AcceptsUnsignedAlias c.table.slli rd rs1 shamt
  | .srli rd rs1 shamt => expectedIshift c.imm12AcceptsUnsignedAlias c.table.srli rd rs1 shamt
  | .lui rd imm => expectedU c.table.lui rd imm
  | .jal rd imm => expectedJ c.table.jal rd imm
  | .csrrw rd rs1 csr => expectedCSR c.table.csrrw rd rs1 csr
  | .csrrs rd rs1 csr => expectedCSR c.table.csrrs rd rs1 csr
  | .csrrc rd rs1 csr => expectedCSR c.table.csrrc rd rs1 csr
  | .csrrwi rd imm csr => expectedCSRI c.table.csrrwi rd imm csr
  | .csrrsi rd imm csr => expectedCSRI c.table.csrrsi rd imm csr
  | .csrrci rd imm csr => expectedCSRI c.table.csrrci rd imm csr
  | .ebreak => .ok c.table.ebreak
  | .cEbreak => .ok c.table.cEbreak
  | .dret => .ok c.table.dret
  | .fenceI => .ok c.table.fenceI
  | .encJ m rd imm => expectedJ m rd imm
  | .encR m rd rs1 rs2 => expectedR m rd rs1 rs2
  | .encS m rs1 rs2 imm => expectedS c.imm12AcceptsUnsignedAlias m rs1 rs2 imm
  | .encI m rd rs1 imm => expectedI c.imm12AcceptsUnsignedAlias m rd rs1 imm
  | .encIshift m rd rs1 shamt => expectedIshift c.imm12AcceptsUnsignedAlias m rd rs1 shamt
  | .encU m rd imm => expectedU m rd imm
  | .encB m rs1 rs2 imm => expectedB m rs1 rs2 imm
  | .encCSR m rd rs1 csr => expectedCSR m rd rs1 csr
  | .encCSRI m rd imm csr => expectedCSRI m rd imm csr

/-- A format-encoder request, as opposed to a named one (R47). -/
def isFormatRequest (i : Instr) : Bool := i.mnemonic == none

/-- The operand of a request under a field name; `none` where its format has no such operand (R49). -/
def operandOf (field : Field) (i : Instr) : Option Int :=
  match i, field with
  | .ld rd _ _, .rd => some rd
  | .ld _ rs1 _, .rs1 => some rs1
  | .ld _ _ imm, .imm => some imm
  | .lw rd _ _, .rd => some rd
  | .lw _ rs1 _, .rs1 => some rs1
  | .lw _ _ imm, .imm => some imm
  | .lh rd _ _, .rd => some rd
  | .lh _ rs1 _, .rs1 => some rs1
  | .lh _ _ imm, .imm => some imm
  | .lb rd _ _, .rd => some rd
  | .lb _ rs1 _, .rs1 => some rs1
  | .lb _ _ imm, .imm => some imm
  | .flw rd _ _, .rd => some rd
  | .flw _ rs1 _, .rs1 => some rs1
  | .flw _ _ imm, .imm => some imm
  | .fld rd _ _, .rd => some rd
  | .fld _ rs1 _, .rs1 => some rs1
  | .fld _ _ imm, .imm => some imm
  | .sd rs1 _ _, .rs1 => some rs1
  | .sd _ rs2 _, .rs2 => some rs2
  | .sd _ _ imm, .imm => some imm
  | .sw rs1 _ _, .rs1 => some rs1
  | .sw _ rs2 _, .rs2 => some rs2
  | .sw _ _ imm, .imm => some imm
  | .sh rs1 _ _, .rs1 => some rs1
  | .sh _ rs2 _, .rs2 => some rs2
  | .sh _ _ imm, .imm => some imm
  | .sb rs1 _ _, .rs1 => some rs1
  | .sb _ rs2 _, .rs2 => some rs2
  | .sb _ _ imm, .imm => some imm
  | .fsw rs1 _ _, .rs1 => some rs1
  | .fsw _ rs2 _, .rs2 => some rs2
  | .fsw _ _ imm, .imm => some imm
  | .fsd rs1 _ _, .rs1 => some rs1
  | .fsd _ rs2 _, .rs2 => some rs2
  | .fsd _ _ imm, .imm => some imm
  | .addi rd _ _, .rd => some rd
  | .addi _ rs1 _, .rs1 => some rs1
  | .addi _ _ imm, .imm => some imm
  | .andi rd _ _, .rd => some rd
  | .andi _ rs1 _, .rs1 => some rs1
  | .andi _ _ imm, .imm => some imm
  | .ori rd _ _, .rd => some rd
  | .ori _ rs1 _, .rs1 => some rs1
  | .ori _ _ imm, .imm => some imm
  | .xori rd _ _, .rd => some rd
  | .xori _ rs1 _, .rs1 => some rs1
  | .xori _ _ imm, .imm => some imm
  | .slli rd _ _, .rd => some rd
  | .slli _ rs1 _, .rs1 => some rs1
  | .slli _ _ shamt, .shamt => some shamt
  | .srli rd _ _, .rd => some rd
  | .srli _ rs1 _, .rs1 => some rs1
  | .srli _ _ shamt, .shamt => some shamt
  | .lui rd _, .rd => some rd
  | .lui _ imm, .imm => some imm
  | .jal rd _, .rd => some rd
  | .jal _ imm, .imm => some imm
  | .csrrw rd _ _, .rd => some rd
  | .csrrw _ rs1 _, .rs1 => some rs1
  | .csrrw _ _ csr, .csr => some csr
  | .csrrs rd _ _, .rd => some rd
  | .csrrs _ rs1 _, .rs1 => some rs1
  | .csrrs _ _ csr, .csr => some csr
  | .csrrc rd _ _, .rd => some rd
  | .csrrc _ rs1 _, .rs1 => some rs1
  | .csrrc _ _ csr, .csr => some csr
  | .csrrwi rd _ _, .rd => some rd
  | .csrrwi _ imm _, .imm => some imm
  | .csrrwi _ _ csr, .csr => some csr
  | .csrrsi rd _ _, .rd => some rd
  | .csrrsi _ imm _, .imm => some imm
  | .csrrsi _ _ csr, .csr => some csr
  | .csrrci rd _ _, .rd => some rd
  | .csrrci _ imm _, .imm => some imm
  | .csrrci _ _ csr, .csr => some csr
  | .encJ _ rd _, .rd => some rd
  | .encJ _ _ imm, .imm => some imm
  | .encR _ rd _ _, .rd => some rd
  | .encR _ _ rs1 _, .rs1 => some rs1
  | .encR _ _ _ rs2, .rs2 => some rs2
  | .encS _ rs1 _ _, .rs1 => some rs1
  | .encS _ _ rs2 _, .rs2 => some rs2
  | .encS _ _ _ imm, .imm => some imm
  | .encI _ rd _ _, .rd => some rd
  | .encI _ _ rs1 _, .rs1 => some rs1
  | .encI _ _ _ imm, .imm => some imm
  | .encIshift _ rd _ _, .rd => some rd
  | .encIshift _ _ rs1 _, .rs1 => some rs1
  | .encIshift _ _ _ shamt, .shamt => some shamt
  | .encU _ rd _, .rd => some rd
  | .encU _ _ imm, .imm => some imm
  | .encB _ rs1 _ _, .rs1 => some rs1
  | .encB _ _ rs2 _, .rs2 => some rs2
  | .encB _ _ _ imm, .imm => some imm
  | .encCSR _ rd _ _, .rd => some rd
  | .encCSR _ _ rs1 _, .rs1 => some rs1
  | .encCSR _ _ _ csr, .csr => some csr
  | .encCSRI _ rd _ _, .rd => some rd
  | .encCSRI _ _ imm _, .imm => some imm
  | .encCSRI _ _ _ csr, .csr => some csr
  | _, _ => none

/-- The operand a failure record names: that of `operandOf`, but for the 12-bit check of the I-shift format, which reports the
shift amount under the field `imm` (R99, decision D16). -/
def reportedOperand (field : Field) (i : Instr) : Option Int :=
  if i.format = .Ishift ∧ field = .imm then operandOf .shamt i else operandOf field i

/-- Which encoders raise a failure of this field, reason and width (60_exceptions.md R148, columns "raised by" and "recorded
width"). -/
def raisers (field : Field) (reason : Reason) (width : Nat) : List Format :=
  match field, reason, width with
  | .rd, .range, 5 => [.J, .R, .I, .Ishift, .U, .CSR, .CSRI]
  | .rs1, .range, 5 => [.R, .S, .I, .Ishift, .B, .CSR]
  | .rs2, .range, 5 => [.R, .S, .B]
  | .imm, .range, 12 => [.I, .S, .Ishift]
  | .shamt, .range, 6 => [.Ishift]
  | .imm, .alignment, 13 => [.B]
  | .imm, .range, 13 => [.B]
  | .imm, .range, 20 => [.U]
  | .imm, .alignment, 21 => [.J]
  | .imm, .range, 21 => [.J]
  | .csr, .range, 12 => [.CSR, .CSRI]
  | .imm, .range, 5 => [.CSRI]
  | _, _, _ => []

/-- The condition under which a failure is raised (R148, column "condition"). -/
def causeHolds (accepts : Bool) (f : InvalidOperand) : Bool :=
  match f.field, f.reason, f.width with
  | .rd, .range, 5 => !regLegal f.value
  | .rs1, .range, 5 => !regLegal f.value
  | .rs2, .range, 5 => !regLegal f.value
  | .imm, .range, 12 => !imm12Legal accepts f.value
  | .shamt, .range, 6 => imm12Legal accepts f.value && !shamtLegal f.value
  | .imm, .alignment, 13 => decide (f.value % 2 ≠ 0)
  | .imm, .range, 13 => decide (f.value % 2 = 0) && !(decide (-4096 ≤ f.value) && decide (f.value ≤ 4095))
  | .imm, .range, 20 => !immULegal f.value
  | .imm, .alignment, 21 => decide (f.value % 2 ≠ 0)
  | .imm, .range, 21 => decide (f.value % 2 = 0) && !(decide (-1048576 ≤ f.value) && decide (f.value ≤ 1048575))
  | .csr, .range, 12 => !csrLegal f.value
  | .imm, .range, 5 => !uimm5Legal f.value
  | _, _, _ => false

/-- The bits of a format that an operand may change (41_formats.md R116). -/
def operandBits (F : Format) (field : Field) : Word :=
  match F, field with
  | _, .rd => 0x00000F80#32
  | .CSRI, .imm => 0x000F8000#32
  | _, .rs1 => 0x000F8000#32
  | _, .rs2 => 0x01F00000#32
  | _, .csr => 0xFFF00000#32
  | .I, .imm => 0xFFF00000#32
  | _, .shamt => 0x03F00000#32
  | .S, .imm => 0xFE000F80#32
  | .B, .imm => 0xFE000F80#32
  | .U, .imm => 0xFFFFF000#32
  | .J, .imm => 0xFFFFF000#32
  | _, .imm => 0x00000000#32

/-- The same format-encoder request with another match pattern; a named request stays as it is. -/
def withMatch (m' : Word) (i : Instr) : Instr :=
  match i with
  | .encJ _ rd imm => .encJ m' rd imm
  | .encR _ rd rs1 rs2 => .encR m' rd rs1 rs2
  | .encS _ rs1 rs2 imm => .encS m' rs1 rs2 imm
  | .encI _ rd rs1 imm => .encI m' rd rs1 imm
  | .encIshift _ rd rs1 shamt => .encIshift m' rd rs1 shamt
  | .encU _ rd imm => .encU m' rd imm
  | .encB _ rs1 rs2 imm => .encB m' rs1 rs2 imm
  | .encCSR _ rd rs1 csr => .encCSR m' rd rs1 csr
  | .encCSRI _ rd imm csr => .encCSRI m' rd imm csr
  | other => other

/-- The invariant: the configuration meets its premise (10_state.md R33) and every failure at the result port has one of the
causes of R148. -/
def Inv (s : State) : Prop :=
  s.config.wellFormed = true ∧
    ∀ f, .invalidOperand f ∈ s.results → causeHolds s.config.imm12AcceptsUnsignedAlias f = true

end Sys2Proof.Machine
end

