-- ==== Sys2Proof/Certificates/Slice0/Obligations.lean ====
section
/-! DEFINITION. The statements about the model, for the provers. Each docstring names the rules of spec/ it formalises, or says that
it is about the model's own convention and names the log entry.

`s.deliver r` is the state with `r` as its newest result and everything else unchanged, so an equation `exec i s = .next (s.deliver r)`
says the result and the frame at once. The premise `s.config.wellFormed = true` is 10_state.md R33. -/

open Sys2Proof Sys2Proof.Machine

/-! ### Reset, step and decoding -/

/-- The default match table of R79, value by value in the order of R78, meets the premise of R33, and the machine starts with it
and with the flag off (R11). The values are general knowledge in the spec's own words (log entry 2). -/
def Obligations.DefaultMatchTableValues : Prop :=
  Mnemonic.all.map State.reset.config.table.get =
      [0x00003003#32, 0x00002003#32, 0x00001003#32, 0x00000003#32, 0x00002007#32, 0x00003007#32] ++
      [0x00003023#32, 0x00002023#32, 0x00001023#32, 0x00000023#32, 0x00002027#32, 0x00003027#32] ++
      [0x00000013#32, 0x00007013#32, 0x00006013#32, 0x00004013#32, 0x00001013#32, 0x00005013#32] ++
      [0x00000037#32, 0x0000006F#32, 0x00001073#32, 0x00002073#32, 0x00003073#32, 0x00005073#32] ++
      [0x00006073#32, 0x00007073#32, 0x00100073#32, 0x00009002#32, 0x7B200073#32, 0x0000100F#32] ∧
    State.reset.config.wellFormed = true ∧ State.reset.config.imm12AcceptsUnsignedAlias = false

/-- The invariant holds after reset (its configuration is the default one of R11). -/
def Obligations.InvariantHoldsAtReset : Prop := Inv State.reset

/-- Every step keeps the invariant: the configuration keeps meeting R33, and every failure at the result port has a cause of
R148. -/
def Obligations.StepKeepsInvariant : Prop := ∀ s s' : State, Inv s → step s = .next s' → Inv s'

/-- A step takes the oldest request and runs it in the state without it; with no request it changes nothing. The port as a list and
the idle step are the model's own (log entries 3 and 5). -/
def Obligations.StepRunsOldestRequest : Prop :=
  (∀ (s : State) (i : Instr) (rest : List Instr), s.requests = i :: rest → step s = exec i { s with requests := rest }) ∧
    ∀ s : State, s.requests = [] → step s = .next s

/-- A table word that decodes to a request is run by the next step, exactly as `exec` runs that request. The placing of the request
is the model's own (log entry 4). -/
def Obligations.PlacedWordRunsDecodedRequest : Prop :=
  ∀ (s : State) (nbits w : Nat) (i : Instr),
    decodeTableWord nbits w = some i → step (s.withFetchWord nbits w) = exec i s

/-- Words written out from the encodings of 30_encoding.md and the vectors of 95_test_vectors.md decode to the requests they stand
for; a word with no row does not decode. The selector byte is the model's own (log entry 4). -/
def Obligations.SampleWordsDecode : Prop :=
  decodeTableWord 32 0x00400293 = some (.addi 5 0 4) ∧ decodeTableWord 32 0xFFC12503 = some (.lw 10 2 (-4)) ∧
  decodeTableWord 32 0xFE813C23 = some (.sd 2 8 (-8)) ∧ decodeTableWord 32 0x03F09093 = some (.slli 1 1 63) ∧
  decodeTableWord 32 0x123452B7 = some (.lui 5 0x12345) ∧ decodeTableWord 32 0xFFDFF0EF = some (.jal 1 (-4)) ∧
  decodeTableWord 32 0xFFF130F3 = some (.csrrc 1 2 0xFFF) ∧ decodeTableWord 32 0x7B0FD073 = some (.csrrwi 0 31 0x7B0) ∧
  decodeTableWord 32 0x00100073 = some .ebreak ∧ decodeTableWord 16 0x9002 = some .cEbreak ∧
  decodeTableWord 40 0x07FE029EE3 = some (.encB 0x00001063#32 5 0 (-4)) ∧
  decodeTableWord 40 0x02003100B3 = some (.encR 0x00000033#32 1 2 3) ∧ decodeTableWord 32 0x003100B3 = none

/-- Decoding the image of a well-formed request gives the request back, with every operand, and leaves the bytes after it
(R67, R80, R113). The image's selector byte is the model's own (log entry 4). -/
def Obligations.DecodeEncodeGivesRequestBack : Prop :=
  ∀ (i : Instr) (rest : List Byte), i.wellFormed = true → decode (encode i ++ rest) = .ok (i, rest)

/-- What decodes is well formed and encodes to the same bytes, but for the two rows whose mask leaves bits free: `fence.i`, whose
other bits a decoder ignores, and the 16-bit `c.ebreak` (R80). The image is the model's own (log entry 4). -/
def Obligations.EncodeDecodeGivesBytesBack : Prop :=
  ∀ (bytes : List Byte) (i : Instr), decode bytes = .ok (i, []) →
    i.wellFormed = true ∧ (i ≠ .fenceI → i ≠ .cEbreak → encode i = bytes)

/-- No word meets the mask and match of two named constructors (R79, R80). -/
def Obligations.NamedRowsDoNotOverlap : Prop :=
  ∀ (w : Word) (m m' : Mnemonic), matchesRow w m = true → matchesRow w m' = true → m = m'

/-- A word that a named request produces under the default configuration decodes to that very request (R67, R80, R113). -/
def Obligations.ProducedWordDecodesToItsRequest : Prop :=
  ∀ (i : Instr) (s : State) (w : Word), s.config = Config.standard → i.mnemonic ≠ none →
    exec i s = .next (s.deliver (.ok w)) → decodeNamed w = .ok i

/-! ### Bit-field primitives -/

/-- R81: `bits` gives the bits `lo..hi` of the value, right-aligned, and is `(value >> lo) mod 2^(hi − lo + 1)`; outside its
precondition it is the contract failure. -/
def Obligations.BitsExtractsRightAligned : Prop :=
  ∀ (value : Word) (hi lo : Nat),
    (lo ≤ hi → hi < 32 → ∃ r : Word, bits value hi lo = .ok r ∧ r.toNat = value.toNat / 2 ^ lo % 2 ^ (hi - lo + 1) ∧
      ∀ k, r.getLsbD k = (decide (k ≤ hi - lo) && value.getLsbD (lo + k))) ∧
    (¬(lo ≤ hi ∧ hi < 32) → bits value hi lo = .error .contractViolation)

/-- R82: `bit(value, b)` is `bits(value, b, b)` and is 0 or 1. -/
def Obligations.BitIsOneBitOfBits : Prop :=
  ∀ (value : Word) (b : Nat), bit value b = bits value b b ∧
    (b < 32 → bit value b = .ok (if value.getLsbD b then 1#32 else 0#32)) ∧ (32 ≤ b → bit value b = .error .contractViolation)

/-- R83: a primitive called outside its precondition is a contract failure and not an `InvalidOperand`. -/
def Obligations.PrimitiveContractFailure : Prop :=
  (∀ (value : Word) (hi lo : Nat), hi < lo ∨ 32 ≤ hi → bits value hi lo = .error .contractViolation) ∧
  (∀ (value : Word) (b : Nat), 32 ≤ b → bit value b = .error .contractViolation) ∧
  ∀ f : InvalidOperand, Stop.contractViolation ≠ Stop.invalidOperand f

/-! ### Format encoders -/

/-- R95: the J format, every operand (layout R55, checks R87, R89, R90 in the order of R91). -/
def Obligations.JumpFormatEncoder : Prop :=
  ∀ (s : State) (m : Word) (rd imm : Int), s.config.wellFormed = true →
    exec (.encJ m rd imm) s = .next (s.deliver (expectedJ m rd imm))

/-- R96: the R format, every operand (layout R56). -/
def Obligations.RegisterFormatEncoder : Prop :=
  ∀ (s : State) (m : Word) (rd rs1 rs2 : Int), s.config.wellFormed = true →
    exec (.encR m rd rs1 rs2) s = .next (s.deliver (expectedR m rd rs1 rs2))

/-- R97: the S format, every operand (layout R57). -/
def Obligations.StoreFormatEncoder : Prop :=
  ∀ (s : State) (m : Word) (rs1 rs2 imm : Int), s.config.wellFormed = true →
    exec (.encS m rs1 rs2 imm) s = .next (s.deliver (expectedS s.config.imm12AcceptsUnsignedAlias m rs1 rs2 imm))

/-- R98: the I format, every operand (layout R58). -/
def Obligations.ImmediateFormatEncoder : Prop :=
  ∀ (s : State) (m : Word) (rd rs1 imm : Int), s.config.wellFormed = true →
    exec (.encI m rd rs1 imm) s = .next (s.deliver (expectedI s.config.imm12AcceptsUnsignedAlias m rd rs1 imm))

/-- R99: the shift variant of the I format, every operand (layout R59; both checks). -/
def Obligations.ShiftFormatEncoder : Prop :=
  ∀ (s : State) (m : Word) (rd rs1 shamt : Int), s.config.wellFormed = true →
    exec (.encIshift m rd rs1 shamt) s =
      .next (s.deliver (expectedIshift s.config.imm12AcceptsUnsignedAlias m rd rs1 shamt))

/-- R100: the U format, every operand (layout R60). -/
def Obligations.UpperImmediateFormatEncoder : Prop :=
  ∀ (s : State) (m : Word) (rd imm : Int), s.config.wellFormed = true →
    exec (.encU m rd imm) s = .next (s.deliver (expectedU m rd imm))

/-- R101: the B format, every operand (layout R61). -/
def Obligations.BranchFormatEncoder : Prop :=
  ∀ (s : State) (m : Word) (rs1 rs2 imm : Int), s.config.wellFormed = true →
    exec (.encB m rs1 rs2 imm) s = .next (s.deliver (expectedB m rs1 rs2 imm))

/-- R102: the CSR-register format, every operand (layout R62). -/
def Obligations.CsrRegisterFormatEncoder : Prop :=
  ∀ (s : State) (m : Word) (rd rs1 csr : Int), s.config.wellFormed = true →
    exec (.encCSR m rd rs1 csr) s = .next (s.deliver (expectedCSR m rd rs1 csr))

/-- R103: the CSR-immediate format, every operand (layout R63). -/
def Obligations.CsrImmediateFormatEncoder : Prop :=
  ∀ (s : State) (m : Word) (rd imm csr : Int), s.config.wellFormed = true →
    exec (.encCSRI m rd imm csr) s = .next (s.deliver (expectedCSRI m rd imm csr))

/-! ### Named constructors -/

/-- R117 to R122: each load is the I format with its own match constant, for every operand; its default match is that of the rule. The default
constants are general knowledge in the spec's own words (R79, log entry 2). -/
def Obligations.LoadConstructors : Prop :=
  (∀ (s : State) (rd rs1 imm : Int), s.config.wellFormed = true →
    let a := s.config.imm12AcceptsUnsignedAlias
    exec (.ld rd rs1 imm) s = .next (s.deliver (expectedI a s.config.table.ld rd rs1 imm)) ∧
    exec (.lw rd rs1 imm) s = .next (s.deliver (expectedI a s.config.table.lw rd rs1 imm)) ∧
    exec (.lh rd rs1 imm) s = .next (s.deliver (expectedI a s.config.table.lh rd rs1 imm)) ∧
    exec (.lb rd rs1 imm) s = .next (s.deliver (expectedI a s.config.table.lb rd rs1 imm)) ∧
    exec (.flw rd rs1 imm) s = .next (s.deliver (expectedI a s.config.table.flw rd rs1 imm)) ∧
    exec (.fld rd rs1 imm) s = .next (s.deliver (expectedI a s.config.table.fld rd rs1 imm))) ∧
  defaultTable.ld = 0x00003003#32 ∧ defaultTable.lw = 0x00002003#32 ∧ defaultTable.lh = 0x00001003#32 ∧
  defaultTable.lb = 0x00000003#32 ∧ defaultTable.flw = 0x00002007#32 ∧ defaultTable.fld = 0x00003007#32

/-- R123 to R128: each store is the S format with its own match constant, for every operand; its default match is that of the rule. The default
constants are general knowledge in the spec's own words (R79, log entry 2). -/
def Obligations.StoreConstructors : Prop :=
  (∀ (s : State) (rs1 rs2 imm : Int), s.config.wellFormed = true →
    let a := s.config.imm12AcceptsUnsignedAlias
    exec (.sd rs1 rs2 imm) s = .next (s.deliver (expectedS a s.config.table.sd rs1 rs2 imm)) ∧
    exec (.sw rs1 rs2 imm) s = .next (s.deliver (expectedS a s.config.table.sw rs1 rs2 imm)) ∧
    exec (.sh rs1 rs2 imm) s = .next (s.deliver (expectedS a s.config.table.sh rs1 rs2 imm)) ∧
    exec (.sb rs1 rs2 imm) s = .next (s.deliver (expectedS a s.config.table.sb rs1 rs2 imm)) ∧
    exec (.fsw rs1 rs2 imm) s = .next (s.deliver (expectedS a s.config.table.fsw rs1 rs2 imm)) ∧
    exec (.fsd rs1 rs2 imm) s = .next (s.deliver (expectedS a s.config.table.fsd rs1 rs2 imm))) ∧
  defaultTable.sd = 0x00003023#32 ∧ defaultTable.sw = 0x00002023#32 ∧ defaultTable.sh = 0x00001023#32 ∧
  defaultTable.sb = 0x00000023#32 ∧ defaultTable.fsw = 0x00002027#32 ∧ defaultTable.fsd = 0x00003027#32

/-- R129 to R132: each immediate ALU constructor is the I format with its own match constant, for every operand.The default
constants are general knowledge in the spec's own words (R79, log entry 2). -/
def Obligations.ImmediateAluConstructors : Prop :=
  (∀ (s : State) (rd rs1 imm : Int), s.config.wellFormed = true →
    let a := s.config.imm12AcceptsUnsignedAlias
    exec (.addi rd rs1 imm) s = .next (s.deliver (expectedI a s.config.table.addi rd rs1 imm)) ∧
    exec (.andi rd rs1 imm) s = .next (s.deliver (expectedI a s.config.table.andi rd rs1 imm)) ∧
    exec (.ori rd rs1 imm) s = .next (s.deliver (expectedI a s.config.table.ori rd rs1 imm)) ∧
    exec (.xori rd rs1 imm) s = .next (s.deliver (expectedI a s.config.table.xori rd rs1 imm))) ∧
  defaultTable.addi = 0x00000013#32 ∧ defaultTable.andi = 0x00007013#32 ∧ defaultTable.ori = 0x00006013#32 ∧
  defaultTable.xori = 0x00004013#32

/-- R133, R134: each shift is the I-shift format with its own match constant, for every operand.The default
constants are general knowledge in the spec's own words (R79, log entry 2). -/
def Obligations.ShiftConstructors : Prop :=
  (∀ (s : State) (rd rs1 shamt : Int), s.config.wellFormed = true →
    let a := s.config.imm12AcceptsUnsignedAlias
    exec (.slli rd rs1 shamt) s = .next (s.deliver (expectedIshift a s.config.table.slli rd rs1 shamt)) ∧
    exec (.srli rd rs1 shamt) s = .next (s.deliver (expectedIshift a s.config.table.srli rd rs1 shamt))) ∧
  defaultTable.slli = 0x00001013#32 ∧ defaultTable.srli = 0x00005013#32

/-- R135, R136: `lui` is the U format and `jal` the J format, each with its own match constant, for every operand.The default
constants are general knowledge in the spec's own words (R79, log entry 2). -/
def Obligations.UpperImmediateAndJumpConstructors : Prop :=
  (∀ (s : State) (rd imm : Int), s.config.wellFormed = true →
    exec (.lui rd imm) s = .next (s.deliver (expectedU s.config.table.lui rd imm)) ∧
    exec (.jal rd imm) s = .next (s.deliver (expectedJ s.config.table.jal rd imm))) ∧
  defaultTable.lui = 0x00000037#32 ∧ defaultTable.jal = 0x0000006F#32

/-- R137 to R139: each register form is the CSR format with its own match constant, for every operand.The default
constants are general knowledge in the spec's own words (R79, log entry 2). -/
def Obligations.CsrRegisterConstructors : Prop :=
  (∀ (s : State) (rd rs1 csr : Int), s.config.wellFormed = true →
    exec (.csrrw rd rs1 csr) s = .next (s.deliver (expectedCSR s.config.table.csrrw rd rs1 csr)) ∧
    exec (.csrrs rd rs1 csr) s = .next (s.deliver (expectedCSR s.config.table.csrrs rd rs1 csr)) ∧
    exec (.csrrc rd rs1 csr) s = .next (s.deliver (expectedCSR s.config.table.csrrc rd rs1 csr))) ∧
  defaultTable.csrrw = 0x00001073#32 ∧ defaultTable.csrrs = 0x00002073#32 ∧ defaultTable.csrrc = 0x00003073#32

/-- R140 to R142: each immediate form is the CSRI format with its own match constant, for every operand.The default
constants are general knowledge in the spec's own words (R79, log entry 2). -/
def Obligations.CsrImmediateConstructors : Prop :=
  (∀ (s : State) (rd imm csr : Int), s.config.wellFormed = true →
    exec (.csrrwi rd imm csr) s = .next (s.deliver (expectedCSRI s.config.table.csrrwi rd imm csr)) ∧
    exec (.csrrsi rd imm csr) s = .next (s.deliver (expectedCSRI s.config.table.csrrsi rd imm csr)) ∧
    exec (.csrrci rd imm csr) s = .next (s.deliver (expectedCSRI s.config.table.csrrci rd imm csr))) ∧
  defaultTable.csrrwi = 0x00005073#32 ∧ defaultTable.csrrsi = 0x00006073#32 ∧ defaultTable.csrrci = 0x00007073#32

/-- R143 to R146: a zero-operand request gives its match constant; the default constants are those of the rules,
general knowledge in the spec's own words (R79, log entry 2). -/
def Obligations.ZeroOperandConstructors : Prop :=
  (∀ s : State, s.config.wellFormed = true →
    exec .ebreak s = .next (s.deliver (.ok s.config.table.ebreak)) ∧
    exec .cEbreak s = .next (s.deliver (.ok s.config.table.cEbreak)) ∧
    exec .dret s = .next (s.deliver (.ok s.config.table.dret)) ∧
    exec .fenceI s = .next (s.deliver (.ok s.config.table.fenceI))) ∧
  defaultTable.ebreak = 0x00100073#32 ∧ defaultTable.cEbreak = 0x00009002#32 ∧ defaultTable.dret = 0x7B200073#32 ∧
  defaultTable.fenceI = 0x0000100F#32

/-- R50: the multiplexer. A named request is the format-encoder request of its format with `MATCH[m]`; a zero-operand one returns
`MATCH[m]`. -/
def Obligations.NamedRequestIsFormatRequestWithMatch : Prop :=
  ∀ (s : State) (a b c : Int), let t := s.config.table
  (exec (.ld a b c) s = exec (.encI t.ld a b c) s ∧ exec (.lw a b c) s = exec (.encI t.lw a b c) s ∧
   exec (.lh a b c) s = exec (.encI t.lh a b c) s ∧ exec (.lb a b c) s = exec (.encI t.lb a b c) s ∧
   exec (.flw a b c) s = exec (.encI t.flw a b c) s ∧ exec (.fld a b c) s = exec (.encI t.fld a b c) s) ∧
  (exec (.sd a b c) s = exec (.encS t.sd a b c) s ∧ exec (.sw a b c) s = exec (.encS t.sw a b c) s ∧
   exec (.sh a b c) s = exec (.encS t.sh a b c) s ∧ exec (.sb a b c) s = exec (.encS t.sb a b c) s ∧
   exec (.fsw a b c) s = exec (.encS t.fsw a b c) s ∧ exec (.fsd a b c) s = exec (.encS t.fsd a b c) s) ∧
  (exec (.addi a b c) s = exec (.encI t.addi a b c) s ∧ exec (.andi a b c) s = exec (.encI t.andi a b c) s ∧
   exec (.ori a b c) s = exec (.encI t.ori a b c) s ∧ exec (.xori a b c) s = exec (.encI t.xori a b c) s ∧
   exec (.slli a b c) s = exec (.encIshift t.slli a b c) s ∧ exec (.srli a b c) s = exec (.encIshift t.srli a b c) s) ∧
  (exec (.lui a b) s = exec (.encU t.lui a b) s ∧ exec (.jal a b) s = exec (.encJ t.jal a b) s) ∧
  (exec (.csrrw a b c) s = exec (.encCSR t.csrrw a b c) s ∧ exec (.csrrs a b c) s = exec (.encCSR t.csrrs a b c) s ∧
   exec (.csrrc a b c) s = exec (.encCSR t.csrrc a b c) s) ∧
  (exec (.csrrwi a b c) s = exec (.encCSRI t.csrrwi a b c) s ∧ exec (.csrrsi a b c) s = exec (.encCSRI t.csrrsi a b c) s ∧
   exec (.csrrci a b c) s = exec (.encCSRI t.csrrci a b c) s) ∧
  (s.config.wellFormed = true → exec .ebreak s = .next (s.deliver (.ok t.ebreak)) ∧
   exec .cEbreak s = .next (s.deliver (.ok t.cEbreak)) ∧ exec .dret s = .next (s.deliver (.ok t.dret)) ∧
   exec .fenceI s = .next (s.deliver (.ok t.fenceI)))

/-- Under the default configuration the four constants are the words of R79, and `c.ebreak` leaves bits [31:16] 0 (R42). The default
values are general knowledge in the spec's own words (log entry 2). -/
def Obligations.DefaultConstantWords : Prop :=
  ∀ s : State, s.config = Config.standard →
    exec .ebreak s = .next (s.deliver (.ok 0x00100073#32)) ∧ exec .cEbreak s = .next (s.deliver (.ok 0x00009002#32)) ∧
    exec .dret s = .next (s.deliver (.ok 0x7B200073#32)) ∧ exec .fenceI s = .next (s.deliver (.ok 0x0000100F#32)) ∧
    (0x00009002#32).extractLsb' 16 16 = 0#16

/-! ### Which requests give a word, which a failure -/

/-- Every request whose operands are in their domains gives the word made of its format's layout and its match (R35, R65, R86, R92). -/
def Obligations.LegalRequestYieldsLayoutWithMatch : Prop :=
  ∀ (i : Instr) (s : State), s.config.wellFormed = true → i.legal s.config.imm12AcceptsUnsignedAlias = true →
    exec i s = .next (s.deliver (.ok (i.layoutBits ||| i.matchIn s.config.table)))

/-- R108: an operand outside its domain gives an `InvalidOperand` and no word. -/
def Obligations.OutOfDomainOperandYieldsNoWord : Prop :=
  ∀ (i : Instr) (s : State), s.config.wellFormed = true → i.legal s.config.imm12AcceptsUnsignedAlias = false →
    ∃ f : InvalidOperand, exec i s = .next (s.deliver (.invalidOperand f))

/-- R148: every failure is one of the listed causes, raised by a listed format, with the listed width, its condition true of the
value, and its value the operand exactly as given; nothing else fails. -/
def Obligations.FailureRecordHasListedCause : Prop :=
  ∀ (i : Instr) (s : State) (f : InvalidOperand), exec i s = .next (s.deliver (.invalidOperand f)) →
    i.format ∈ raisers f.field f.reason f.width ∧ causeHolds s.config.imm12AcceptsUnsignedAlias f = true ∧
    reportedOperand f.field i = some f.value

/-- R105: an odd B or J offset fails with reason `alignment` at any magnitude, once the register operands pass. -/
def Obligations.OddOffsetFailsAlignment : Prop :=
  ∀ (s : State) (m : Word) (r1 r2 imm : Int), s.config.wellFormed = true → regLegal r1 = true → regLegal r2 = true →
    imm % 2 ≠ 0 →
    exec (.encJ m r1 imm) s = .next (s.deliver (.invalidOperand ⟨.imm, imm, 21, .alignment⟩)) ∧
    exec (.encB m r1 r2 imm) s = .next (s.deliver (.invalidOperand ⟨.imm, imm, 13, .alignment⟩))

/-- R104: the source's boundaries. Register 31 succeeds and 32 fails in every register position of every format; the 12-bit
immediates 2047 and −2048 succeed and 4096 fails under either flag; an odd branch or jump immediate yields no word, whatever the
registers. -/
def Obligations.SourceBoundaries : Prop :=
  ∀ (s : State) (m : Word), s.config.wellFormed = true →
    (∀ i ∈ [Instr.encJ m 31 0, .encR m 31 31 31, .encS m 31 31 2047, .encS m 31 31 (-2048), .encI m 31 31 2047,
        .encI m 31 31 (-2048), .encIshift m 31 31 63, .encU m 31 0, .encB m 31 31 0, .encCSR m 31 31 0, .encCSRI m 31 0 0],
      ∃ w : Word, exec i s = .next (s.deliver (.ok w))) ∧
    (∀ i ∈ [Instr.encJ m 32 0, .encR m 32 0 0, .encI m 32 0 0, .encIshift m 32 0 0, .encU m 32 0, .encCSR m 32 0 0,
        .encCSRI m 32 0 0], exec i s = .next (s.deliver (badReg .rd 32))) ∧
    (∀ i ∈ [Instr.encR m 0 32 0, .encS m 32 0 0, .encI m 0 32 0, .encIshift m 0 32 0, .encB m 32 0 0, .encCSR m 0 32 0],
      exec i s = .next (s.deliver (badReg .rs1 32))) ∧
    (∀ i ∈ [Instr.encR m 0 0 32, .encS m 0 32 0, .encB m 0 32 0], exec i s = .next (s.deliver (badReg .rs2 32))) ∧
    (∀ i ∈ [Instr.encS m 0 0 4096, .encI m 0 0 4096],
      exec i s = .next (s.deliver (.invalidOperand ⟨.imm, 4096, 12, .range⟩))) ∧
    (∀ r1 r2 imm : Int, imm % 2 ≠ 0 → ∀ i ∈ [Instr.encJ m r1 imm, .encB m r1 r2 imm],
      ∃ f : InvalidOperand, exec i s = .next (s.deliver (.invalidOperand f)))

/-! ### Whole-block rules -/

/-- R107: every request gives a result, a word or an `InvalidOperand`, and so reaches no contract failure; nothing else changes. -/
def Obligations.EveryRequestGivesOneResult : Prop :=
  ∀ (i : Instr) (s : State), s.config.wellFormed = true → ∃ r : Result, exec i s = .next (s.deliver r)

/-- No request reaches the primitives' contract failure, under any configuration (R85, R150). -/
def Obligations.NoRequestFaults : Prop := ∀ (i : Instr) (s : State) (f : Fault), exec i s ≠ .fault f

/-- R33: a configuration is well formed exactly when no match constant meets an operand field of its format, and an ill-formed one
is refused as a whole. -/
def Obligations.IllFormedConfigurationRefusedAsWhole : Prop :=
  (∀ c : Config, c.wellFormed = true ↔ ∀ m : Mnemonic, c.table.get m &&& fieldMask m.format = 0#32) ∧
  ∀ (i : Instr) (s : State), s.config.wellFormed = false → exec i s = .refused .illFormedConfiguration

/-- R22: under one configuration the result is a function of the request alone; no earlier result and no waiting request has any
part in it. -/
def Obligations.ResultIsFunctionOfRequestAlone : Prop :=
  ∀ (i : Instr) (s t : State), s.config.wellFormed = true → s.config = t.config →
    ∃ r : Result, exec i s = .next (s.deliver r) ∧ exec i t = .next (t.deliver r)

/-- R112: the result of a format-encoder request depends only on the match, the operands and the flag, not on the match table. -/
def Obligations.FormatEncoderHasNoHiddenInput : Prop :=
  ∀ (i : Instr) (s t : State), isFormatRequest i = true → s.config.wellFormed = true → t.config.wellFormed = true →
    s.config.imm12AcceptsUnsignedAlias = t.config.imm12AcceptsUnsignedAlias →
    ∃ r : Result, exec i s = .next (s.deliver r) ∧ exec i t = .next (t.deliver r)

/-- The frame of every request: the configuration, the waiting requests and the earlier results stay, and one result is added
(R21, R32, R35, R149). The ports as lists are the model's own (log entry 3). -/
def Obligations.RequestChangesOnlyResultPort : Prop :=
  ∀ (i : Instr) (s t : State), exec i s = .next t →
    t.config = s.config ∧ t.requests = s.requests ∧ ∃ r : Result, t.results = s.results ++ [r]

/-- Every waiting request is answered in turn, each as the function `encode : Config → Request → Result` of R20 answers it alone:
a failure changes no later result (R22, R152). -/
def Obligations.QueueIsAnsweredRequestByRequest : Prop :=
  ∀ s : State, s.config.wellFormed = true →
    Host.Core.run Sys2Proof.core s.requests.length s =
      .next { s with requests := [], results := s.results ++ s.requests.map (expected s.config) }

/-- Evaluating the same requests in another order gives each the same result (R43): the results are a permutation, paired with
their requests. -/
def Obligations.OrderOfRequestsDoesNotMatter : Prop :=
  ∀ s t : State, s.config.wellFormed = true → s.config = t.config → s.requests.Perm t.requests →
    s.results = [] → t.results = [] →
    ∃ s' t' : State, Host.Core.run Sys2Proof.core s.requests.length s = .next s' ∧
      Host.Core.run Sys2Proof.core t.requests.length t = .next t' ∧
      (s.requests.zip s'.results).Perm (t.requests.zip t'.results)

/-! ### Properties of the produced words -/

/-- R109: the bits the format gives to no operand come from the match alone. -/
def Obligations.MatchBitsPassThrough : Prop :=
  ∀ (i : Instr) (s : State) (w : Word), exec i s = .next (s.deliver (.ok w)) →
    w &&& matchBits i.format = i.matchIn s.config.table &&& matchBits i.format

/-- R110: with a match that leaves the fields free, OR, sum and exclusive OR of fields and match are one. -/
def Obligations.OrEqualsSumAndXor : Prop :=
  ∀ (i : Instr) (s : State) (w : Word), i.matchIn s.config.table &&& fieldMask i.format = 0#32 →
    exec i s = .next (s.deliver (.ok w)) →
    let m := i.matchIn s.config.table
    let f := w &&& fieldMask i.format
    f &&& m = 0#32 ∧ w = f ||| m ∧ w = f + m ∧ w = f ^^^ m

/-- R111: the field bits of a word are exactly the placed operands and do not depend on the match. -/
def Obligations.FieldBitsIndependentOfMatch : Prop :=
  ∀ (i : Instr) (s : State) (m' w w' : Word), isFormatRequest i = true → i.matchFree = true →
    m' &&& fieldMask i.format = 0#32 → exec i s = .next (s.deliver (.ok w)) →
    exec (withMatch m' i) s = .next (s.deliver (.ok w')) →
    w &&& fieldMask i.format = i.layoutBits ∧ w' &&& fieldMask i.format = w &&& fieldMask i.format

/-- R113: the extraction functions recover exactly the operands, and the match bits recover the match. -/
def Obligations.RoundTripRecoversOperands : Prop :=
  ∀ (s : State) (m w : Word) (a b c : Int), s.config.imm12AcceptsUnsignedAlias = false →
    (m &&& fieldMask .J = 0#32 → exec (.encJ m a b) s = .next (s.deliver (.ok w)) →
      rdOf w = a ∧ immJOf w = b ∧ w &&& matchBits .J = m) ∧
    (m &&& fieldMask .R = 0#32 → exec (.encR m a b c) s = .next (s.deliver (.ok w)) →
      rdOf w = a ∧ rs1Of w = b ∧ rs2Of w = c ∧ w &&& matchBits .R = m) ∧
    (m &&& fieldMask .S = 0#32 → exec (.encS m a b c) s = .next (s.deliver (.ok w)) →
      rs1Of w = a ∧ rs2Of w = b ∧ immSOf w = c ∧ w &&& matchBits .S = m) ∧
    (m &&& fieldMask .I = 0#32 → exec (.encI m a b c) s = .next (s.deliver (.ok w)) →
      rdOf w = a ∧ rs1Of w = b ∧ immIOf w = c ∧ w &&& matchBits .I = m) ∧
    (m &&& fieldMask .Ishift = 0#32 → exec (.encIshift m a b c) s = .next (s.deliver (.ok w)) →
      rdOf w = a ∧ rs1Of w = b ∧ shamtOf w = c ∧ w.extractLsb' 26 6 = m.extractLsb' 26 6 ∧ w &&& matchBits .Ishift = m) ∧
    (m &&& fieldMask .U = 0#32 → exec (.encU m a b) s = .next (s.deliver (.ok w)) →
      rdOf w = a ∧ immUOf w = b ∧ w &&& matchBits .U = m) ∧
    (m &&& fieldMask .B = 0#32 → exec (.encB m a b c) s = .next (s.deliver (.ok w)) →
      rs1Of w = a ∧ rs2Of w = b ∧ immBOf w = c ∧ w &&& matchBits .B = m) ∧
    (m &&& fieldMask .CSR = 0#32 → exec (.encCSR m a b c) s = .next (s.deliver (.ok w)) →
      rdOf w = a ∧ rs1Of w = b ∧ csrOf w = c ∧ w &&& matchBits .CSR = m) ∧
    (m &&& fieldMask .CSRI = 0#32 → exec (.encCSRI m a b c) s = .next (s.deliver (.ok w)) →
      rdOf w = a ∧ uimm5Of w = b ∧ csrOf w = c ∧ w &&& matchBits .CSRI = m)

/-- R114: in the accepted band 2048..4095 only the 12-bit pattern survives: the extraction gives `imm − 4096`. The match leaves the
fields free, as in R113. -/
def Obligations.AcceptedBandRoundTripsAsPattern : Prop :=
  ∀ (s : State) (m w : Word) (a b imm : Int), s.config.imm12AcceptsUnsignedAlias = true → 2048 ≤ imm → imm ≤ 4095 →
    (m &&& fieldMask .I = 0#32 → exec (.encI m a b imm) s = .next (s.deliver (.ok w)) →
      immIOf w = imm - 4096 ∧ patternOf 12 (immIOf w) = patternOf 12 imm) ∧
    (m &&& fieldMask .S = 0#32 → exec (.encS m a b imm) s = .next (s.deliver (.ok w)) →
      immSOf w = imm - 4096 ∧ patternOf 12 (immSOf w) = patternOf 12 imm)

/-- R115: with one format, one match that leaves the fields free and the flag off, different legal operands give different words. It is
said of every request, a named one with its match constant included. -/
def Obligations.DifferentOperandsGiveDifferentWords : Prop :=
  ∀ (i j : Instr) (s : State) (w : Word), i.format = j.format → i.matchIn s.config.table = j.matchIn s.config.table →
    i.matchIn s.config.table &&& fieldMask i.format = 0#32 → s.config.imm12AcceptsUnsignedAlias = false →
    exec i s = .next (s.deliver (.ok w)) → exec j s = .next (s.deliver (.ok w)) → ∀ field : Field, operandOf field i = operandOf field j

/-- R116: two requests of one format and one well-formed match that differ in one operand give words that differ only in the bits
of that operand. It is said of every request, a named one with its match constant included. -/
def Obligations.OperandChangesOnlyItsOwnBits : Prop :=
  ∀ (i j : Instr) (s : State) (field : Field) (w w' : Word), i.format = j.format →
    i.matchIn s.config.table = j.matchIn s.config.table → i.matchIn s.config.table &&& fieldMask i.format = 0#32 →
    (∀ g : Field, g ≠ field → operandOf g i = operandOf g j) →
    exec i s = .next (s.deliver (.ok w)) → exec j s = .next (s.deliver (.ok w')) →
    (w ^^^ w') &&& ~~~ operandBits i.format field = 0#32
end

