-- ==== Sys2Proof/Laws/Checks.lean ====
section
/-! SUPPORT. Each operand check in the terms of WellFormed.lean: it goes on exactly on the legal values of 10_state.md R34 and
otherwise ends with its record. -/

namespace Sys2Proof.Machine

/-- The failure an operand check ends with. -/
abbrev failing {α : Type} (field : Field) (value : Int) (width : Nat) (reason : Reason) : Checked α :=
  .error (.invalidOperand ⟨field, value, width, reason⟩)

/-- A check goes on to what follows it, or ends with its record. -/
theorem require_bind {α : Type} (cond : Prop) [Decidable cond] (field : Field) (v : Int) (n : Nat) (why : Reason)
    (k : Unit → Checked α) : (require cond field v n why >>= k) = if cond then k () else failing field v n why := by
  unfold require
  split <;> rfl

theorem checkReg_bind {α : Type} (field : Field) (r : Int) (k : Unit → Checked α) :
    (checkReg field r >>= k) = if regLegal r = false then failing field r 5 .range else k () := by
  rw [checkReg, require_bind]
  by_cases h : 0 ≤ r ∧ r ≤ 31
  · simp [regLegal, h]
  · rw [if_neg h, if_pos (by simpa [regLegal] using h)]

theorem checkImm12_bind {α : Type} (accepts : Bool) (v : Int) (k : Unit → Checked α) :
    (checkImm12 accepts v >>= k) = if imm12Legal accepts v = false then failing .imm v 12 .range else k () := by
  rw [checkImm12, require_bind]
  have key : (-2048 ≤ v ∧ v ≤ imm12Top accepts) ↔ imm12Legal accepts v = true := by
    cases accepts
    · simp [imm12Top, imm12Legal]
    · simp [imm12Top, imm12Legal]; omega
  by_cases h : imm12Legal accepts v = true
  · rw [if_pos (key.mpr h), if_neg (by simp [h])]
  · rw [if_neg (fun c => h (key.mp c)), if_pos (by simpa using h)]

theorem checkShamt_bind {α : Type} (v : Int) (k : Unit → Checked α) :
    (checkShamt v >>= k) = if shamtLegal v = false then failing .shamt v 6 .range else k () := by
  rw [checkShamt, require_bind]
  have key : (0 ≤ v ∧ v < (SHAMT_LIMIT : Int)) ↔ shamtLegal v = true := by
    simp [shamtLegal, SHAMT_LIMIT]; omega
  by_cases h : shamtLegal v = true
  · rw [if_pos (key.mpr h), if_neg (by simp [h])]
  · rw [if_neg (fun c => h (key.mp c)), if_pos (by simpa using h)]

theorem checkUnsigned20_bind {α : Type} (v : Int) (k : Unit → Checked α) :
    (checkUnsigned .imm v IMM_U >>= k) = if immULegal v = false then failing .imm v 20 .range else k () := by
  rw [checkUnsigned, require_bind]
  have key : (0 ≤ v ∧ v ≤ 2 ^ IMM_U - 1) ↔ immULegal v = true := by
    simp [immULegal, IMM_U]
  by_cases h : immULegal v = true
  · rw [if_pos (key.mpr h), if_neg (by simp [h])]
  · rw [if_neg (fun c => h (key.mp c)), if_pos (by simpa using h)]

theorem checkUnsigned5_bind {α : Type} (v : Int) (k : Unit → Checked α) :
    (checkUnsigned .imm v IMM_CSRI >>= k) = if uimm5Legal v = false then failing .imm v 5 .range else k () := by
  rw [checkUnsigned, require_bind]
  have key : (0 ≤ v ∧ v ≤ 2 ^ IMM_CSRI - 1) ↔ uimm5Legal v = true := by
    simp [uimm5Legal, IMM_CSRI]
  by_cases h : uimm5Legal v = true
  · rw [if_pos (key.mpr h), if_neg (by simp [h])]
  · rw [if_neg (fun c => h (key.mp c)), if_pos (by simpa using h)]

theorem checkCsr_bind {α : Type} (v : Int) (k : Unit → Checked α) :
    (checkUnsigned .csr v CSRW >>= k) = if csrLegal v = false then failing .csr v 12 .range else k () := by
  rw [checkUnsigned, require_bind]
  have key : (0 ≤ v ∧ v ≤ 2 ^ CSRW - 1) ↔ csrLegal v = true := by
    simp [csrLegal, CSRW]
  by_cases h : csrLegal v = true
  · rw [if_pos (key.mpr h), if_neg (by simp [h])]
  · rw [if_neg (fun c => h (key.mp c)), if_pos (by simpa using h)]

theorem checkEven_bind {α : Type} (v : Int) (n : Nat) (k : Unit → Checked α) :
    (checkEven v n >>= k) = if v % 2 ≠ 0 then failing .imm v n .alignment else k () := by
  rw [checkEven, require_bind]
  by_cases h : v % 2 = 0
  · rw [if_pos h, if_neg (by simp [h])]
  · rw [if_neg h, if_pos h]

/-- After the alignment check, the J range check passes exactly the legal offsets. -/
theorem checkSignedJ_bind {α : Type} (v : Int) (even : v % 2 = 0) (k : Unit → Checked α) :
    (checkSigned .imm v IMM_J >>= k) = if immJLegal v = false then failing .imm v 21 .range else k () := by
  rw [checkSigned, require_bind]
  have key : (-(2 ^ (IMM_J - 1)) ≤ v ∧ v ≤ 2 ^ (IMM_J - 1) - 1) ↔ immJLegal v = true := by
    simp [immJLegal, IMM_J]; omega
  by_cases h : immJLegal v = true
  · rw [if_pos (key.mpr h), if_neg (by simp [h])]
  · rw [if_neg (fun c => h (key.mp c)), if_pos (by simpa using h)]

/-- After the alignment check, the B range check passes exactly the legal offsets. -/
theorem checkSignedB_bind {α : Type} (v : Int) (even : v % 2 = 0) (k : Unit → Checked α) :
    (checkSigned .imm v IMM_B >>= k) = if immBLegal v = false then failing .imm v 13 .range else k () := by
  rw [checkSigned, require_bind]
  have key : (-(2 ^ (IMM_B - 1)) ≤ v ∧ v ≤ 2 ^ (IMM_B - 1) - 1) ↔ immBLegal v = true := by
    simp [immBLegal, IMM_B]; omega
  by_cases h : immBLegal v = true
  · rw [if_pos (key.mpr h), if_neg (by simp [h])]
  · rw [if_neg (fun c => h (key.mp c)), if_pos (by simpa using h)]

end Sys2Proof.Machine
end

