-- ==== Sys2Proof/Laws/State.lean ====
section
/-! SUPPORT. One lemma per field per update of State, and what each shared operation of Machine/Ops.lean can do. -/

namespace Sys2Proof.Machine

variable (s : State) (r : Result) (rs : List Instr)

@[simp] theorem State.deliver_config : (s.deliver r).config = s.config := rfl
@[simp] theorem State.deliver_requests : (s.deliver r).requests = s.requests := rfl
@[simp] theorem State.deliver_results : (s.deliver r).results = s.results ++ [r] := rfl

@[simp] theorem State.setRequests_config : ({ s with requests := rs } : State).config = s.config := rfl
@[simp] theorem State.setRequests_requests : ({ s with requests := rs } : State).requests = rs := rfl
@[simp] theorem State.setRequests_results : ({ s with requests := rs } : State).results = s.results := rfl

/-- Delivering a result and replacing the waiting requests do not touch the same field. -/
theorem State.deliver_setRequests :
    ({ s.deliver r with requests := rs } : State) = ({ s with requests := rs } : State).deliver r := rfl

@[simp] theorem State.reset_config : State.reset.config = Config.standard := rfl
@[simp] theorem State.reset_requests : State.reset.requests = [] := rfl
@[simp] theorem State.reset_results : State.reset.results = [] := rfl

/-- Two results delivered to one state give one state only if they are equal. -/
theorem State.deliver_injective {s : State} {r r' : Result} (h : s.deliver r = s.deliver r') : r = r' := by
  have h' := congrArg State.results h
  simpa using h'

/-- The result a checked answer becomes, where it is not the contract failure. -/
def resultOf : Checked Word → Option Result
  | .ok w => some (.ok w)
  | .error (.invalidOperand f) => some (.invalidOperand f)
  | .error .contractViolation => none

@[simp] theorem State.conclude_ok (w : Word) : s.conclude (.ok w) = .next (s.deliver (.ok w)) := rfl

@[simp] theorem State.conclude_invalidOperand (f : InvalidOperand) :
    s.conclude (.error (.invalidOperand f)) = .next (s.deliver (.invalidOperand f)) := rfl

@[simp] theorem State.conclude_contractViolation :
    s.conclude (.error .contractViolation) = .fault .contractViolation := rfl

/-- Everything a concluded request can do: deliver the result of its answer, or fault on the contract failure. -/
theorem State.conclude_cases (answer : Checked Word) :
    (∃ r, resultOf answer = some r ∧ s.conclude answer = .next (s.deliver r)) ∨
      (answer = .error .contractViolation ∧ s.conclude answer = .fault .contractViolation) := by
  rcases answer with (f | _) | w
  · exact .inl ⟨_, rfl, rfl⟩
  · exact .inr ⟨rfl, rfl⟩
  · exact .inl ⟨_, rfl, rfl⟩

variable {s}

/-- Under a well-formed configuration a request ends with its encoder's answer. -/
theorem State.evaluate_of_wellFormed (h : s.config.wellFormed = true) (encoder : Config → Checked Word) :
    s.evaluate encoder = s.conclude (encoder s.config) := if_pos h

/-- Under an ill-formed configuration no request has a meaning (R33). -/
theorem State.evaluate_of_illFormed (h : s.config.wellFormed = false) (encoder : Config → Checked Word) :
    s.evaluate encoder = .refused .illFormedConfiguration := by
  simp [State.evaluate, h]

/-- If a request answers a next state, its configuration is well formed and it has delivered one result. -/
theorem State.evaluate_next {encoder : Config → Checked Word} {t : State} (h : s.evaluate encoder = .next t) :
    s.config.wellFormed = true ∧ ∃ r, resultOf (encoder s.config) = some r ∧ t = s.deliver r := by
  by_cases hw : s.config.wellFormed = true
  · rw [State.evaluate_of_wellFormed hw] at h
    rcases s.conclude_cases (encoder s.config) with ⟨r, hr, hc⟩ | ⟨-, hc⟩
    · rw [hc] at h
      exact ⟨hw, r, hr, (Host.Outcome.next.inj h).symm⟩
    · rw [hc] at h
      cases h
  · rw [State.evaluate_of_illFormed (by simpa using hw)] at h
    cases h

end Sys2Proof.Machine
end

