-- ==== Sys2Proof/Laws/Exec.lean ====
section
/-! SUPPORT. What `exec` can do, said once: it evaluates one encoder of the configuration. -/

namespace Sys2Proof.Machine

/-- The encoder of each request, as a function of the configuration (30_encoding.md R50). -/
def encoderOf (i : Instr) (c : Config) : Checked Word :=
  match i with
  | .ld rd rs1 imm => assembleI c.imm12AcceptsUnsignedAlias c.table.ld rd rs1 imm
  | .lw rd rs1 imm => assembleI c.imm12AcceptsUnsignedAlias c.table.lw rd rs1 imm
  | .lh rd rs1 imm => assembleI c.imm12AcceptsUnsignedAlias c.table.lh rd rs1 imm
  | .lb rd rs1 imm => assembleI c.imm12AcceptsUnsignedAlias c.table.lb rd rs1 imm
  | .flw rd rs1 imm => assembleI c.imm12AcceptsUnsignedAlias c.table.flw rd rs1 imm
  | .fld rd rs1 imm => assembleI c.imm12AcceptsUnsignedAlias c.table.fld rd rs1 imm
  | .sd rs1 rs2 imm => assembleS c.imm12AcceptsUnsignedAlias c.table.sd rs1 rs2 imm
  | .sw rs1 rs2 imm => assembleS c.imm12AcceptsUnsignedAlias c.table.sw rs1 rs2 imm
  | .sh rs1 rs2 imm => assembleS c.imm12AcceptsUnsignedAlias c.table.sh rs1 rs2 imm
  | .sb rs1 rs2 imm => assembleS c.imm12AcceptsUnsignedAlias c.table.sb rs1 rs2 imm
  | .fsw rs1 rs2 imm => assembleS c.imm12AcceptsUnsignedAlias c.table.fsw rs1 rs2 imm
  | .fsd rs1 rs2 imm => assembleS c.imm12AcceptsUnsignedAlias c.table.fsd rs1 rs2 imm
  | .addi rd rs1 imm => assembleI c.imm12AcceptsUnsignedAlias c.table.addi rd rs1 imm
  | .andi rd rs1 imm => assembleI c.imm12AcceptsUnsignedAlias c.table.andi rd rs1 imm
  | .ori rd rs1 imm => assembleI c.imm12AcceptsUnsignedAlias c.table.ori rd rs1 imm
  | .xori rd rs1 imm => assembleI c.imm12AcceptsUnsignedAlias c.table.xori rd rs1 imm
  | .slli rd rs1 shamt => assembleIshift c.imm12AcceptsUnsignedAlias c.table.slli rd rs1 shamt
  | .srli rd rs1 shamt => assembleIshift c.imm12AcceptsUnsignedAlias c.table.srli rd rs1 shamt
  | .lui rd imm => assembleU c.table.lui rd imm
  | .jal rd imm => assembleJ c.table.jal rd imm
  | .csrrw rd rs1 csr => assembleCSR c.table.csrrw rd rs1 csr
  | .csrrs rd rs1 csr => assembleCSR c.table.csrrs rd rs1 csr
  | .csrrc rd rs1 csr => assembleCSR c.table.csrrc rd rs1 csr
  | .csrrwi rd imm csr => assembleCSRI c.table.csrrwi rd imm csr
  | .csrrsi rd imm csr => assembleCSRI c.table.csrrsi rd imm csr
  | .csrrci rd imm csr => assembleCSRI c.table.csrrci rd imm csr
  | .ebreak => .ok c.table.ebreak
  | .cEbreak => .ok c.table.cEbreak
  | .dret => .ok c.table.dret
  | .fenceI => .ok c.table.fenceI
  | .encJ m rd imm => assembleJ m rd imm
  | .encR m rd rs1 rs2 => assembleR m rd rs1 rs2
  | .encS m rs1 rs2 imm => assembleS c.imm12AcceptsUnsignedAlias m rs1 rs2 imm
  | .encI m rd rs1 imm => assembleI c.imm12AcceptsUnsignedAlias m rd rs1 imm
  | .encIshift m rd rs1 shamt => assembleIshift c.imm12AcceptsUnsignedAlias m rd rs1 shamt
  | .encU m rd imm => assembleU m rd imm
  | .encB m rs1 rs2 imm => assembleB m rs1 rs2 imm
  | .encCSR m rd rs1 csr => assembleCSR m rd rs1 csr
  | .encCSRI m rd imm csr => assembleCSRI m rd imm csr

/-- Every request evaluates its encoder. -/
theorem exec_eq_evaluate (i : Instr) (s : State) : exec i s = s.evaluate (encoderOf i) := by
  cases i <;> rfl

/-- Under a well-formed configuration a request ends with its encoder's answer. -/
theorem exec_of_wellFormed (i : Instr) {s : State} (h : s.config.wellFormed = true) :
    exec i s = s.conclude (encoderOf i s.config) := by
  rw [exec_eq_evaluate, State.evaluate_of_wellFormed h]

/-- Everything a request that answers a next state has done: it has delivered the one result of its encoder. -/
theorem exec_next {i : Instr} {s t : State} (h : exec i s = .next t) :
    s.config.wellFormed = true ∧ ∃ r, resultOf (encoderOf i s.config) = some r ∧ t = s.deliver r := by
  rw [exec_eq_evaluate] at h
  exact State.evaluate_next h

end Sys2Proof.Machine
end

