-- ==== Sys2Proof/Laws/Tables.lean ====
section
/-! SUPPORT. The small lemmas of Machine/Tables.lean. -/

namespace Sys2Proof

/-- The list of mnemonics holds every mnemonic. -/
theorem Mnemonic.mem_all (m : Mnemonic) : m ∈ Mnemonic.all := by cases m <;> decide

/-- The match bits of a format are the bits outside its field mask (R66). -/
theorem and_matchBits_or_and_fieldMask (w : Word) (F : Format) : (w &&& matchBits F) ||| (w &&& fieldMask F) = w := by
  rw [← BitVec.and_or_distrib_left, matchBits, BitVec.or_comm, BitVec.or_not_self, BitVec.and_allOnes]

/-- A pattern that leaves the fields free is its own match part. -/
theorem and_matchBits_of_free {m : Word} {F : Format} (h : m &&& fieldMask F = 0#32) : m &&& matchBits F = m := by
  have := and_matchBits_or_and_fieldMask m F
  rwa [h, BitVec.or_zero] at this

end Sys2Proof
end

