-- ==== Sys2Proof/Laws/Fields.lean ====
section
/-! SUPPORT. The operand bits of a layout lie in its format's field mask (30_encoding.md R66), so a word's match bits are those of the
match; and an encoded request meets the mask and match of its row (R80). -/

namespace Sys2Proof

/-! Each layout leaves the match-supplied bits of its format 0. -/

theorem layoutJ_free (rd imm : Int) : layoutJ rd imm &&& matchBits .J = 0#32 := by
  rw [show matchBits .J = 0x0000007F#32 from by decide]
  unfold layoutJ
  generalize patternOf 5 rd = p0
  generalize patternOf 21 imm = p1
  apply BitVec.eq_of_getLsbD_eq
  intro k hk
  simp only [BitVec.getLsbD_and, BitVec.getLsbD_append]
  interval_cases k <;> simp

theorem layoutR_free (rd rs1 rs2 : Int) : layoutR rd rs1 rs2 &&& matchBits .R = 0#32 := by
  rw [show matchBits .R = 0xFE00707F#32 from by decide]
  unfold layoutR
  generalize patternOf 5 rd = p0
  generalize patternOf 5 rs1 = p1
  generalize patternOf 5 rs2 = p2
  apply BitVec.eq_of_getLsbD_eq
  intro k hk
  simp only [BitVec.getLsbD_and, BitVec.getLsbD_append]
  interval_cases k <;> simp

theorem layoutS_free (rs1 rs2 imm : Int) : layoutS rs1 rs2 imm &&& matchBits .S = 0#32 := by
  rw [show matchBits .S = 0x0000707F#32 from by decide]
  unfold layoutS
  generalize patternOf 5 rs1 = p0
  generalize patternOf 5 rs2 = p1
  generalize patternOf 12 imm = p2
  apply BitVec.eq_of_getLsbD_eq
  intro k hk
  simp only [BitVec.getLsbD_and, BitVec.getLsbD_append]
  interval_cases k <;> simp

theorem layoutI_free (rd rs1 imm : Int) : layoutI rd rs1 imm &&& matchBits .I = 0#32 := by
  rw [show matchBits .I = 0x0000707F#32 from by decide]
  unfold layoutI
  generalize patternOf 5 rd = p0
  generalize patternOf 5 rs1 = p1
  generalize patternOf 12 imm = p2
  apply BitVec.eq_of_getLsbD_eq
  intro k hk
  simp only [BitVec.getLsbD_and, BitVec.getLsbD_append]
  interval_cases k <;> simp

theorem layoutIshift_free (rd rs1 shamt : Int) : layoutIshift rd rs1 shamt &&& matchBits .Ishift = 0#32 := by
  rw [show matchBits .Ishift = 0xFC00707F#32 from by decide]
  unfold layoutIshift
  generalize patternOf 5 rd = p0
  generalize patternOf 5 rs1 = p1
  generalize patternOf 6 shamt = p2
  apply BitVec.eq_of_getLsbD_eq
  intro k hk
  simp only [BitVec.getLsbD_and, BitVec.getLsbD_append]
  interval_cases k <;> simp

theorem layoutU_free (rd imm : Int) : layoutU rd imm &&& matchBits .U = 0#32 := by
  rw [show matchBits .U = 0x0000007F#32 from by decide]
  unfold layoutU
  generalize patternOf 5 rd = p0
  generalize patternOf 20 imm = p1
  apply BitVec.eq_of_getLsbD_eq
  intro k hk
  simp only [BitVec.getLsbD_and, BitVec.getLsbD_append]
  interval_cases k <;> simp

theorem layoutB_free (rs1 rs2 imm : Int) : layoutB rs1 rs2 imm &&& matchBits .B = 0#32 := by
  rw [show matchBits .B = 0x0000707F#32 from by decide]
  unfold layoutB
  generalize patternOf 5 rs1 = p0
  generalize patternOf 5 rs2 = p1
  generalize patternOf 13 imm = p2
  apply BitVec.eq_of_getLsbD_eq
  intro k hk
  simp only [BitVec.getLsbD_and, BitVec.getLsbD_append]
  interval_cases k <;> simp

theorem layoutCSR_free (rd rs1 csr : Int) : layoutCSR rd rs1 csr &&& matchBits .CSR = 0#32 := by
  rw [show matchBits .CSR = 0x0000707F#32 from by decide]
  unfold layoutCSR
  generalize patternOf 5 rd = p0
  generalize patternOf 5 rs1 = p1
  generalize patternOf 12 csr = p2
  apply BitVec.eq_of_getLsbD_eq
  intro k hk
  simp only [BitVec.getLsbD_and, BitVec.getLsbD_append]
  interval_cases k <;> simp

theorem layoutCSRI_free (rd imm csr : Int) : layoutCSRI rd imm csr &&& matchBits .CSRI = 0#32 := by
  rw [show matchBits .CSRI = 0x0000707F#32 from by decide]
  unfold layoutCSRI
  generalize patternOf 5 rd = p0
  generalize patternOf 5 imm = p1
  generalize patternOf 12 csr = p2
  apply BitVec.eq_of_getLsbD_eq
  intro k hk
  simp only [BitVec.getLsbD_and, BitVec.getLsbD_append]
  interval_cases k <;> simp

/-- The operand bits of a request leave its match bits 0. -/
theorem layoutBits_and_matchBits (i : Instr) : i.layoutBits &&& matchBits i.format = 0#32 := by
  cases i
  case ld => exact layoutI_free _ _ _
  case lw => exact layoutI_free _ _ _
  case lh => exact layoutI_free _ _ _
  case lb => exact layoutI_free _ _ _
  case flw => exact layoutI_free _ _ _
  case fld => exact layoutI_free _ _ _
  case sd => exact layoutS_free _ _ _
  case sw => exact layoutS_free _ _ _
  case sh => exact layoutS_free _ _ _
  case sb => exact layoutS_free _ _ _
  case fsw => exact layoutS_free _ _ _
  case fsd => exact layoutS_free _ _ _
  case addi => exact layoutI_free _ _ _
  case andi => exact layoutI_free _ _ _
  case ori => exact layoutI_free _ _ _
  case xori => exact layoutI_free _ _ _
  case slli => exact layoutIshift_free _ _ _
  case srli => exact layoutIshift_free _ _ _
  case lui => exact layoutU_free _ _
  case jal => exact layoutJ_free _ _
  case csrrw => exact layoutCSR_free _ _ _
  case csrrs => exact layoutCSR_free _ _ _
  case csrrc => exact layoutCSR_free _ _ _
  case csrrwi => exact layoutCSRI_free _ _ _
  case csrrsi => exact layoutCSRI_free _ _ _
  case csrrci => exact layoutCSRI_free _ _ _
  case ebreak => exact BitVec.zero_and
  case cEbreak => exact BitVec.zero_and
  case dret => exact BitVec.zero_and
  case fenceI => exact BitVec.zero_and
  case encJ => exact layoutJ_free _ _
  case encR => exact layoutR_free _ _ _
  case encS => exact layoutS_free _ _ _
  case encI => exact layoutI_free _ _ _
  case encIshift => exact layoutIshift_free _ _ _
  case encU => exact layoutU_free _ _
  case encB => exact layoutB_free _ _ _
  case encCSR => exact layoutCSR_free _ _ _
  case encCSRI => exact layoutCSRI_free _ _ _

/-- The operand bits of a request lie in its field mask. -/
theorem layoutBits_and_fieldMask (i : Instr) : i.layoutBits &&& fieldMask i.format = i.layoutBits := by
  have h := and_matchBits_or_and_fieldMask i.layoutBits i.format
  rwa [layoutBits_and_matchBits, BitVec.zero_or] at h

/-- The field bits of a word made of operand bits and a free match are the operand bits. -/
theorem layoutBits_or_and_fieldMask {i : Instr} {m : Word} (h : m &&& fieldMask i.format = 0#32) :
    (i.layoutBits ||| m) &&& fieldMask i.format = i.layoutBits := by
  rw [BitVec.and_or_distrib_right, layoutBits_and_fieldMask, h, BitVec.or_zero]

/-- The match bits of a word made of operand bits and a free match are the match. -/
theorem layoutBits_or_and_matchBits {i : Instr} {m : Word} (h : m &&& fieldMask i.format = 0#32) :
    (i.layoutBits ||| m) &&& matchBits i.format = m := by
  rw [BitVec.and_or_distrib_right, layoutBits_and_matchBits, BitVec.zero_or, and_matchBits_of_free h]

/-- The default match constants leave the operand fields free (the default configuration meets 10_state.md R33). -/
theorem defaultTable_free (m : Mnemonic) : defaultTable.get m &&& fieldMask m.format = 0#32 := by
  cases m <;> decide

/-- A request whose match is free has a match, under the default table, that leaves its fields free. -/
theorem matchIn_free {i : Instr} (h : i.matchFree = true) : i.matchIn defaultTable &&& fieldMask i.format = 0#32 := by
  cases i
  case ld => exact defaultTable_free .ld
  case lw => exact defaultTable_free .lw
  case lh => exact defaultTable_free .lh
  case lb => exact defaultTable_free .lb
  case flw => exact defaultTable_free .flw
  case fld => exact defaultTable_free .fld
  case sd => exact defaultTable_free .sd
  case sw => exact defaultTable_free .sw
  case sh => exact defaultTable_free .sh
  case sb => exact defaultTable_free .sb
  case fsw => exact defaultTable_free .fsw
  case fsd => exact defaultTable_free .fsd
  case addi => exact defaultTable_free .addi
  case andi => exact defaultTable_free .andi
  case ori => exact defaultTable_free .ori
  case xori => exact defaultTable_free .xori
  case slli => exact defaultTable_free .slli
  case srli => exact defaultTable_free .srli
  case lui => exact defaultTable_free .lui
  case jal => exact defaultTable_free .jal
  case csrrw => exact defaultTable_free .csrrw
  case csrrs => exact defaultTable_free .csrrs
  case csrrc => exact defaultTable_free .csrrc
  case csrrwi => exact defaultTable_free .csrrwi
  case csrrsi => exact defaultTable_free .csrrsi
  case csrrci => exact defaultTable_free .csrrci
  case ebreak => exact defaultTable_free .ebreak
  case cEbreak => exact defaultTable_free .cEbreak
  case dret => exact defaultTable_free .dret
  case fenceI => exact defaultTable_free .fenceI
  all_goals exact beq_iff_eq.mp h

/-- The mask of a row with operands is the match-supplied bits of its format (R66, R80). -/
theorem decodeMask_eq_matchBits {m : Mnemonic} (h : m.format ≠ .zeroOperand) : decodeMask m = matchBits m.format := by
  cases m <;> first | decide | exact absurd rfl h

/-- A word made of a named request's operand bits and its default constant meets the mask and match of its row. -/
theorem matchesRow_layoutBits (i : Instr) {m : Mnemonic} (h : i.mnemonic = some m) :
    matchesRow (i.layoutBits ||| i.matchIn defaultTable) m = true := by
  have hf : i.format = m.format := by cases i <;> cases h <;> rfl
  have ht : i.matchIn defaultTable = defaultTable.get m := by cases i <;> cases h <;> rfl
  by_cases hz : m.format = .zeroOperand
  · cases i <;> cases h <;> first | rfl | exact Format.noConfusion hz
  · have hw : (i.layoutBits ||| i.matchIn defaultTable) &&& matchBits i.format = i.matchIn defaultTable :=
      layoutBits_or_and_matchBits (by rw [ht, hf]; exact defaultTable_free m)
    rw [matchesRow, decodeMask_eq_matchBits hz, ← hf, hw, ht, beq_self_eq_true]

end Sys2Proof
end

