-- ==== Sys2Proof/Laws/Extract.lean ====
section
/-! SUPPORT. The extraction functions (30_encoding.md R67) on a layout, and the layouts on extracted operands; the patterns of legal
operands, read back, are the operands (10_state.md R34). -/

namespace Sys2Proof

/-! ### A legal operand is read back from its pattern -/

/-- A natural number below `2^n` is read back from its n-bit pattern. -/
theorem toNat_patternOf (n : Nat) (v : Int) (h0 : 0 ≤ v) (h1 : v < 2 ^ n) : ((patternOf n v).toNat : Int) = v := by
  unfold patternOf
  rw [BitVec.toNat_ofInt]
  have h : v % ((2 ^ n : Nat) : Int) = v := Int.emod_eq_of_lt h0 (by exact_mod_cast h1)
  rw [h, Int.toNat_of_nonneg h0]

theorem toNat_of_regLegal {v : Int} (h : regLegal v = true) : ((patternOf 5 v).toNat : Int) = v := by
  simp only [regLegal, Bool.and_eq_true, decide_eq_true_eq] at h
  exact toNat_patternOf 5 v h.1 (by norm_num; omega)

theorem toNat_of_uimm5Legal {v : Int} (h : uimm5Legal v = true) : ((patternOf 5 v).toNat : Int) = v := by
  simp only [uimm5Legal, Bool.and_eq_true, decide_eq_true_eq] at h
  exact toNat_patternOf 5 v h.1 (by norm_num; omega)

theorem toNat_of_shamtLegal {v : Int} (h : shamtLegal v = true) : ((patternOf 6 v).toNat : Int) = v := by
  simp only [shamtLegal, Bool.and_eq_true, decide_eq_true_eq] at h
  exact toNat_patternOf 6 v h.1 (by norm_num; omega)

theorem toNat_of_csrLegal {v : Int} (h : csrLegal v = true) : ((patternOf 12 v).toNat : Int) = v := by
  simp only [csrLegal, Bool.and_eq_true, decide_eq_true_eq] at h
  exact toNat_patternOf 12 v h.1 (by norm_num; omega)

theorem toNat_of_immULegal {v : Int} (h : immULegal v = true) : ((patternOf 20 v).toNat : Int) = v := by
  simp only [immULegal, Bool.and_eq_true, decide_eq_true_eq] at h
  exact toNat_patternOf 20 v h.1 (by norm_num; omega)

theorem toInt_of_imm12Legal {v : Int} (h : imm12Legal false v = true) : (patternOf 12 v).toInt = v := by
  simp [imm12Legal] at h
  unfold patternOf
  rw [BitVec.toInt_ofInt, Int.bmod_eq_of_le] <;> norm_num <;> omega

theorem toInt_of_immBLegal {v : Int} (h : immBLegal v = true) : (patternOf 13 v).toInt = v := by
  simp [immBLegal] at h
  unfold patternOf
  rw [BitVec.toInt_ofInt, Int.bmod_eq_of_le] <;> norm_num <;> omega

theorem toInt_of_immJLegal {v : Int} (h : immJLegal v = true) : (patternOf 21 v).toInt = v := by
  simp [immJLegal] at h
  unfold patternOf
  rw [BitVec.toInt_ofInt, Int.bmod_eq_of_le] <;> norm_num <;> omega

/-- A legal offset is even (R34). -/
theorem even_of_immBLegal {v : Int} (h : immBLegal v = true) : v % 2 = 0 := by
  simp only [immBLegal, Bool.and_eq_true, decide_eq_true_eq] at h
  exact h.1.1

/-- A legal offset is even (R34). -/
theorem even_of_immJLegal {v : Int} (h : immJLegal v = true) : v % 2 = 0 := by
  simp only [immJLegal, Bool.and_eq_true, decide_eq_true_eq] at h
  exact h.1.1

/-- The pattern of an even number has bit 0 clear. -/
theorem patternOf_even (n : Nat) (v : Int) (hn : 0 < n) (h : v % 2 = 0) : (patternOf n v).getLsbD 0 = false := by
  unfold patternOf
  rw [← BitVec.testBit_toNat, BitVec.toNat_ofInt]
  have h2 : (v % ((2 ^ n : Nat) : Int)) % 2 = 0 := by
    rw [Int.emod_emod_of_dvd]
    · exact h
    · obtain ⟨k, rfl⟩ := Nat.exists_eq_succ_of_ne_zero hn.ne'
      exact ⟨2 ^ k, by push_cast [pow_succ]; ring⟩
  have h0 : (0 : Int) ≤ v % ((2 ^ n : Nat) : Int) := Int.emod_nonneg _ (by positivity)
  lift v % ((2 ^ n : Nat) : Int) to Nat using h0 with k
  simp [Nat.testBit_zero]
  omega

/-! ### The fields of a word made of a layout and a match that leaves the fields free -/

theorem fields_layoutJ {m w : Word} (hm : m &&& fieldMask .J = 0#32) (rd imm : Int) (he : imm % 2 = 0)
    (hw : w = layoutJ rd imm ||| m) :
    w.extractLsb' 7 5 = patternOf 5 rd ∧
    w.extractLsb' 31 1 ++ w.extractLsb' 12 8 ++ w.extractLsb' 20 1 ++ w.extractLsb' 21 10 ++ 0#1 = patternOf 21 imm := by
  subst hw
  have h0 := patternOf_even 21 imm (by decide) he
  rw [← and_matchBits_of_free hm, show matchBits .J = 0x0000007F#32 from by decide]
  unfold layoutJ
  generalize patternOf 5 rd = p0 at *
  generalize patternOf 21 imm = p1 at *
  refine ⟨?_, ?_⟩
  all_goals
    apply BitVec.eq_of_getLsbD_eq
    intro k hk
    simp only [BitVec.getLsbD_or, BitVec.getLsbD_and, BitVec.getLsbD_append, BitVec.getLsbD_extractLsb']
    interval_cases k <;> simp <;> exact h0

theorem fields_layoutR {m w : Word} (hm : m &&& fieldMask .R = 0#32) (rd rs1 rs2 : Int)
    (hw : w = layoutR rd rs1 rs2 ||| m) :
    w.extractLsb' 7 5 = patternOf 5 rd ∧
    w.extractLsb' 15 5 = patternOf 5 rs1 ∧
    w.extractLsb' 20 5 = patternOf 5 rs2 := by
  subst hw
  rw [← and_matchBits_of_free hm, show matchBits .R = 0xFE00707F#32 from by decide]
  unfold layoutR
  generalize patternOf 5 rd = p0 at *
  generalize patternOf 5 rs1 = p1 at *
  generalize patternOf 5 rs2 = p2 at *
  refine ⟨?_, ?_, ?_⟩
  all_goals
    apply BitVec.eq_of_getLsbD_eq
    intro k hk
    simp only [BitVec.getLsbD_or, BitVec.getLsbD_and, BitVec.getLsbD_append, BitVec.getLsbD_extractLsb']
    interval_cases k <;> simp

theorem fields_layoutS {m w : Word} (hm : m &&& fieldMask .S = 0#32) (rs1 rs2 imm : Int)
    (hw : w = layoutS rs1 rs2 imm ||| m) :
    w.extractLsb' 15 5 = patternOf 5 rs1 ∧
    w.extractLsb' 20 5 = patternOf 5 rs2 ∧
    w.extractLsb' 25 7 ++ w.extractLsb' 7 5 = patternOf 12 imm := by
  subst hw
  rw [← and_matchBits_of_free hm, show matchBits .S = 0x0000707F#32 from by decide]
  unfold layoutS
  generalize patternOf 5 rs1 = p0 at *
  generalize patternOf 5 rs2 = p1 at *
  generalize patternOf 12 imm = p2 at *
  refine ⟨?_, ?_, ?_⟩
  all_goals
    apply BitVec.eq_of_getLsbD_eq
    intro k hk
    simp only [BitVec.getLsbD_or, BitVec.getLsbD_and, BitVec.getLsbD_append, BitVec.getLsbD_extractLsb']
    interval_cases k <;> simp

theorem fields_layoutI {m w : Word} (hm : m &&& fieldMask .I = 0#32) (rd rs1 imm : Int)
    (hw : w = layoutI rd rs1 imm ||| m) :
    w.extractLsb' 7 5 = patternOf 5 rd ∧
    w.extractLsb' 15 5 = patternOf 5 rs1 ∧
    w.extractLsb' 20 12 = patternOf 12 imm := by
  subst hw
  rw [← and_matchBits_of_free hm, show matchBits .I = 0x0000707F#32 from by decide]
  unfold layoutI
  generalize patternOf 5 rd = p0 at *
  generalize patternOf 5 rs1 = p1 at *
  generalize patternOf 12 imm = p2 at *
  refine ⟨?_, ?_, ?_⟩
  all_goals
    apply BitVec.eq_of_getLsbD_eq
    intro k hk
    simp only [BitVec.getLsbD_or, BitVec.getLsbD_and, BitVec.getLsbD_append, BitVec.getLsbD_extractLsb']
    interval_cases k <;> simp

theorem fields_layoutIshift {m w : Word} (hm : m &&& fieldMask .Ishift = 0#32) (rd rs1 shamt : Int)
    (hw : w = layoutIshift rd rs1 shamt ||| m) :
    w.extractLsb' 7 5 = patternOf 5 rd ∧
    w.extractLsb' 15 5 = patternOf 5 rs1 ∧
    w.extractLsb' 20 6 = patternOf 6 shamt := by
  subst hw
  rw [← and_matchBits_of_free hm, show matchBits .Ishift = 0xFC00707F#32 from by decide]
  unfold layoutIshift
  generalize patternOf 5 rd = p0 at *
  generalize patternOf 5 rs1 = p1 at *
  generalize patternOf 6 shamt = p2 at *
  refine ⟨?_, ?_, ?_⟩
  all_goals
    apply BitVec.eq_of_getLsbD_eq
    intro k hk
    simp only [BitVec.getLsbD_or, BitVec.getLsbD_and, BitVec.getLsbD_append, BitVec.getLsbD_extractLsb']
    interval_cases k <;> simp

theorem fields_layoutU {m w : Word} (hm : m &&& fieldMask .U = 0#32) (rd imm : Int)
    (hw : w = layoutU rd imm ||| m) :
    w.extractLsb' 7 5 = patternOf 5 rd ∧
    w.extractLsb' 12 20 = patternOf 20 imm := by
  subst hw
  rw [← and_matchBits_of_free hm, show matchBits .U = 0x0000007F#32 from by decide]
  unfold layoutU
  generalize patternOf 5 rd = p0 at *
  generalize patternOf 20 imm = p1 at *
  refine ⟨?_, ?_⟩
  all_goals
    apply BitVec.eq_of_getLsbD_eq
    intro k hk
    simp only [BitVec.getLsbD_or, BitVec.getLsbD_and, BitVec.getLsbD_append, BitVec.getLsbD_extractLsb']
    interval_cases k <;> simp

theorem fields_layoutB {m w : Word} (hm : m &&& fieldMask .B = 0#32) (rs1 rs2 imm : Int) (he : imm % 2 = 0)
    (hw : w = layoutB rs1 rs2 imm ||| m) :
    w.extractLsb' 15 5 = patternOf 5 rs1 ∧
    w.extractLsb' 20 5 = patternOf 5 rs2 ∧
    w.extractLsb' 31 1 ++ w.extractLsb' 7 1 ++ w.extractLsb' 25 6 ++ w.extractLsb' 8 4 ++ 0#1 = patternOf 13 imm := by
  subst hw
  have h0 := patternOf_even 13 imm (by decide) he
  rw [← and_matchBits_of_free hm, show matchBits .B = 0x0000707F#32 from by decide]
  unfold layoutB
  generalize patternOf 5 rs1 = p0 at *
  generalize patternOf 5 rs2 = p1 at *
  generalize patternOf 13 imm = p2 at *
  refine ⟨?_, ?_, ?_⟩
  all_goals
    apply BitVec.eq_of_getLsbD_eq
    intro k hk
    simp only [BitVec.getLsbD_or, BitVec.getLsbD_and, BitVec.getLsbD_append, BitVec.getLsbD_extractLsb']
    interval_cases k <;> simp <;> exact h0

theorem fields_layoutCSR {m w : Word} (hm : m &&& fieldMask .CSR = 0#32) (rd rs1 csr : Int)
    (hw : w = layoutCSR rd rs1 csr ||| m) :
    w.extractLsb' 7 5 = patternOf 5 rd ∧
    w.extractLsb' 15 5 = patternOf 5 rs1 ∧
    w.extractLsb' 20 12 = patternOf 12 csr := by
  subst hw
  rw [← and_matchBits_of_free hm, show matchBits .CSR = 0x0000707F#32 from by decide]
  unfold layoutCSR
  generalize patternOf 5 rd = p0 at *
  generalize patternOf 5 rs1 = p1 at *
  generalize patternOf 12 csr = p2 at *
  refine ⟨?_, ?_, ?_⟩
  all_goals
    apply BitVec.eq_of_getLsbD_eq
    intro k hk
    simp only [BitVec.getLsbD_or, BitVec.getLsbD_and, BitVec.getLsbD_append, BitVec.getLsbD_extractLsb']
    interval_cases k <;> simp

theorem fields_layoutCSRI {m w : Word} (hm : m &&& fieldMask .CSRI = 0#32) (rd imm csr : Int)
    (hw : w = layoutCSRI rd imm csr ||| m) :
    w.extractLsb' 7 5 = patternOf 5 rd ∧
    w.extractLsb' 15 5 = patternOf 5 imm ∧
    w.extractLsb' 20 12 = patternOf 12 csr := by
  subst hw
  rw [← and_matchBits_of_free hm, show matchBits .CSRI = 0x0000707F#32 from by decide]
  unfold layoutCSRI
  generalize patternOf 5 rd = p0 at *
  generalize patternOf 5 imm = p1 at *
  generalize patternOf 12 csr = p2 at *
  refine ⟨?_, ?_, ?_⟩
  all_goals
    apply BitVec.eq_of_getLsbD_eq
    intro k hk
    simp only [BitVec.getLsbD_or, BitVec.getLsbD_and, BitVec.getLsbD_append, BitVec.getLsbD_extractLsb']
    interval_cases k <;> simp

/-! ### Extracted operands give their bits back -/

theorem patternOf_toNat {n : Nat} (x : BitVec n) : patternOf n (x.toNat : Int) = x := by simp [patternOf]

theorem patternOf_toInt {n : Nat} (x : BitVec n) : patternOf n x.toInt = x := by simp [patternOf]

theorem layoutJ_of_fields (w : Word) : layoutJ (rdOf w) (immJOf w) = w &&& fieldMask .J := by
  unfold layoutJ rdOf immJOf
  rw [patternOf_toNat, patternOf_toInt, show fieldMask .J = 0xFFFFFF80#32 from rfl]
  apply BitVec.eq_of_getLsbD_eq
  intro k hk
  simp only [BitVec.getLsbD_and, BitVec.getLsbD_append, BitVec.getLsbD_extractLsb']
  interval_cases k <;> simp

theorem layoutR_of_fields (w : Word) : layoutR (rdOf w) (rs1Of w) (rs2Of w) = w &&& fieldMask .R := by
  unfold layoutR rdOf rs1Of rs2Of
  rw [patternOf_toNat, patternOf_toNat, patternOf_toNat, show fieldMask .R = 0x01FF8F80#32 from rfl]
  apply BitVec.eq_of_getLsbD_eq
  intro k hk
  simp only [BitVec.getLsbD_and, BitVec.getLsbD_append, BitVec.getLsbD_extractLsb']
  interval_cases k <;> simp

theorem layoutS_of_fields (w : Word) : layoutS (rs1Of w) (rs2Of w) (immSOf w) = w &&& fieldMask .S := by
  unfold layoutS rs1Of rs2Of immSOf
  rw [patternOf_toNat, patternOf_toNat, patternOf_toInt, show fieldMask .S = 0xFFFF8F80#32 from rfl]
  apply BitVec.eq_of_getLsbD_eq
  intro k hk
  simp only [BitVec.getLsbD_and, BitVec.getLsbD_append, BitVec.getLsbD_extractLsb']
  interval_cases k <;> simp

theorem layoutI_of_fields (w : Word) : layoutI (rdOf w) (rs1Of w) (immIOf w) = w &&& fieldMask .I := by
  unfold layoutI rdOf rs1Of immIOf
  rw [patternOf_toNat, patternOf_toNat, patternOf_toInt, show fieldMask .I = 0xFFFF8F80#32 from rfl]
  apply BitVec.eq_of_getLsbD_eq
  intro k hk
  simp only [BitVec.getLsbD_and, BitVec.getLsbD_append, BitVec.getLsbD_extractLsb']
  interval_cases k <;> simp

theorem layoutIshift_of_fields (w : Word) : layoutIshift (rdOf w) (rs1Of w) (shamtOf w) = w &&& fieldMask .Ishift := by
  unfold layoutIshift rdOf rs1Of shamtOf
  rw [patternOf_toNat, patternOf_toNat, patternOf_toNat, show fieldMask .Ishift = 0x03FF8F80#32 from rfl]
  apply BitVec.eq_of_getLsbD_eq
  intro k hk
  simp only [BitVec.getLsbD_and, BitVec.getLsbD_append, BitVec.getLsbD_extractLsb']
  interval_cases k <;> simp

theorem layoutU_of_fields (w : Word) : layoutU (rdOf w) (immUOf w) = w &&& fieldMask .U := by
  unfold layoutU rdOf immUOf
  rw [patternOf_toNat, patternOf_toNat, show fieldMask .U = 0xFFFFFF80#32 from rfl]
  apply BitVec.eq_of_getLsbD_eq
  intro k hk
  simp only [BitVec.getLsbD_and, BitVec.getLsbD_append, BitVec.getLsbD_extractLsb']
  interval_cases k <;> simp

theorem layoutB_of_fields (w : Word) : layoutB (rs1Of w) (rs2Of w) (immBOf w) = w &&& fieldMask .B := by
  unfold layoutB rs1Of rs2Of immBOf
  rw [patternOf_toNat, patternOf_toNat, patternOf_toInt, show fieldMask .B = 0xFFFF8F80#32 from rfl]
  apply BitVec.eq_of_getLsbD_eq
  intro k hk
  simp only [BitVec.getLsbD_and, BitVec.getLsbD_append, BitVec.getLsbD_extractLsb']
  interval_cases k <;> simp

theorem layoutCSR_of_fields (w : Word) : layoutCSR (rdOf w) (rs1Of w) (csrOf w) = w &&& fieldMask .CSR := by
  unfold layoutCSR rdOf rs1Of csrOf
  rw [patternOf_toNat, patternOf_toNat, patternOf_toNat, show fieldMask .CSR = 0xFFFF8F80#32 from rfl]
  apply BitVec.eq_of_getLsbD_eq
  intro k hk
  simp only [BitVec.getLsbD_and, BitVec.getLsbD_append, BitVec.getLsbD_extractLsb']
  interval_cases k <;> simp

theorem layoutCSRI_of_fields (w : Word) : layoutCSRI (rdOf w) (uimm5Of w) (csrOf w) = w &&& fieldMask .CSRI := by
  unfold layoutCSRI rdOf uimm5Of csrOf
  rw [patternOf_toNat, patternOf_toNat, patternOf_toNat, show fieldMask .CSRI = 0xFFFF8F80#32 from rfl]
  apply BitVec.eq_of_getLsbD_eq
  intro k hk
  simp only [BitVec.getLsbD_and, BitVec.getLsbD_append, BitVec.getLsbD_extractLsb']
  interval_cases k <;> simp

/-! ### Extracted operands are legal -/

theorem regLegal_toNat (x : BitVec 5) : regLegal (x.toNat : Int) = true := by
  have h := x.isLt
  simp [regLegal]
  omega

theorem uimm5Legal_toNat (x : BitVec 5) : uimm5Legal (x.toNat : Int) = true := by
  have h := x.isLt
  simp [uimm5Legal]
  omega

theorem shamtLegal_toNat (x : BitVec 6) : shamtLegal (x.toNat : Int) = true := by
  have h := x.isLt
  simp [shamtLegal]
  omega

theorem csrLegal_toNat (x : BitVec 12) : csrLegal (x.toNat : Int) = true := by
  have h := x.isLt
  simp [csrLegal]
  omega

theorem immULegal_toNat (x : BitVec 20) : immULegal (x.toNat : Int) = true := by
  have h := x.isLt
  simp [immULegal]
  omega

theorem imm12Legal_toInt (x : BitVec 12) : imm12Legal false x.toInt = true := by
  have h1 := BitVec.le_toInt x
  have h2 := BitVec.toInt_lt (x := x)
  simp [imm12Legal] at *
  omega

/-- A number whose bit 0 is clear is even. -/
theorem even_toInt_append {n : Nat} (x : BitVec n) : (x ++ 0#1).toInt % 2 = 0 := by
  have h : (x ++ 0#1).toNat = x.toNat * 2 := by rw [BitVec.toNat_append]; simp [Nat.shiftLeft_eq]
  rw [BitVec.toInt_eq_toNat_cond, h, pow_succ]
  split <;> omega

theorem immBLegal_toInt (x : BitVec 12) : immBLegal (x ++ 0#1).toInt = true := by
  have h1 := BitVec.le_toInt (x ++ 0#1)
  have h2 := BitVec.toInt_lt (x := x ++ 0#1)
  have h3 := even_toInt_append x
  simp [immBLegal] at *
  omega

theorem immJLegal_toInt (x : BitVec 20) : immJLegal (x ++ 0#1).toInt = true := by
  have h1 := BitVec.le_toInt (x ++ 0#1)
  have h2 := BitVec.toInt_lt (x := x ++ 0#1)
  have h3 := even_toInt_append x
  simp [immJLegal] at *
  omega

end Sys2Proof
end

