-- ==== Sys2Proof/Laws/Patterns.lean ====
section
/-! SUPPORT. The 32-bit and N-bit patterns of an operand, and what the primitives `bits` and `bit` give (40_primitives.md R81 to
R83). -/

namespace Sys2Proof.Machine

/-- The N-bit pattern of an operand is the low N bits of its 32-bit pattern (R65). -/
theorem patternOf_eq_setWidth (n : Nat) (v : Int) (hn : n ≤ 32) : patternOf n v = (u32 v).setWidth n := by
  unfold u32 patternOf
  apply BitVec.eq_of_toNat_eq
  rw [BitVec.toNat_setWidth, BitVec.toNat_ofInt, BitVec.toNat_ofInt]
  have hd : (((2 ^ n : Nat) : Int)) ∣ ((2 ^ 32 : Nat) : Int) := by exact_mod_cast Nat.pow_dvd_pow 2 hn
  have h32 : (0 : Int) ≤ v % ((2 ^ 32 : Nat) : Int) := Int.emod_nonneg _ (by norm_num)
  have key : v % ((2 ^ n : Nat) : Int) = (v % ((2 ^ 32 : Nat) : Int)) % ((2 ^ n : Nat) : Int) :=
    (Int.emod_emod_of_dvd v hd).symm
  rw [key]
  lift v % ((2 ^ 32 : Nat) : Int) to Nat using h32 with k
  norm_cast

/-- An operand in 0..2^N−1 has only its N low bits (R94: legal indices and unsigned immediates are shifted into place directly). -/
theorem u32_eq_setWidth (n : Nat) (v : Int) (h0 : 0 ≤ v) (h1 : v < 2 ^ n) (hn : n ≤ 32) :
    u32 v = (patternOf n v).setWidth 32 := by
  unfold u32 patternOf
  apply BitVec.eq_of_toNat_eq
  obtain ⟨k, rfl⟩ := Int.eq_ofNat_of_zero_le h0
  have hk : k < 2 ^ n := by exact_mod_cast h1
  have h2 : k < 2 ^ 32 := lt_of_lt_of_le hk (Nat.pow_le_pow_right (by decide) hn)
  simp only [BitVec.ofInt_natCast, BitVec.toNat_ofNat, BitVec.toNat_setWidth]
  rw [Nat.mod_eq_of_lt h2, Nat.mod_eq_of_lt hk, Nat.mod_eq_of_lt h2]

/-- Within its precondition `bits` is the extracted field, right-aligned. -/
theorem bits_ok (v : Word) (hi lo : Nat) (h : lo ≤ hi) (h' : hi < 32) :
    bits v hi lo = .ok ((v.extractLsb' lo (hi - lo + 1)).setWidth 32) := by
  rw [bits, if_pos ⟨h, h'⟩]
  congr 1
  apply BitVec.eq_of_toNat_eq
  simp

/-- Within its precondition `bit` is one extracted bit. -/
theorem bit_ok (v : Word) (b : Nat) (h : b < 32) : bit v b = .ok ((v.extractLsb' b 1).setWidth 32) := by
  rw [bit, bits_ok v b b (le_refl b) h, Nat.sub_self]

/-- Outside its precondition `bits` is the contract failure (R83). -/
theorem bits_error (v : Word) (hi lo : Nat) (h : ¬(lo ≤ hi ∧ hi < 32)) : bits v hi lo = .error .contractViolation := if_neg h

end Sys2Proof.Machine
end

