-- ==== Sys2Proof/Laws/Layout.lean ====
section
/-! SUPPORT. The scatter of each encoder's pseudocode (41_formats.md R95 to R103) is the layout table of its format (30_encoding.md
R55 to R63), once the register and csr operands are legal. Each is a statement about bits: the operands' patterns are first made
variables, then the two sides are compared bit by bit. -/

namespace Sys2Proof.Machine

/-- A legal register index is its 5-bit pattern, in place. -/
theorem u32_of_regLegal {r : Int} (h : regLegal r = true) : u32 r = (patternOf 5 r).setWidth 32 := by
  simp only [regLegal, Bool.and_eq_true, decide_eq_true_eq] at h
  exact u32_eq_setWidth 5 r h.1 (by norm_num; omega) (by decide)

/-- A legal csr address is its 12-bit pattern, in place. -/
theorem u32_of_csrLegal {c : Int} (h : csrLegal c = true) : u32 c = (patternOf 12 c).setWidth 32 := by
  simp only [csrLegal, Bool.and_eq_true, decide_eq_true_eq] at h
  exact u32_eq_setWidth 12 c h.1 (by norm_num; omega) (by decide)

/-- A legal shift amount is its 6-bit pattern, zero-extended. -/
theorem u32_of_shamtLegal {v : Int} (h : shamtLegal v = true) : u32 v = (patternOf 6 v).setWidth 32 := by
  simp only [shamtLegal, Bool.and_eq_true, decide_eq_true_eq] at h
  exact u32_eq_setWidth 6 v h.1 (by norm_num; omega) (by decide)

/-- One slice of an operand's pattern, right-aligned, as `bits` gives it. -/
abbrev slice (p : Word) (lo len : Nat) : Word := (p.extractLsb' lo len).setWidth 32

theorem scatterJ_eq_layout {rd imm : Int} (hrd : regLegal rd = true) :
    (slice (u32 imm) 20 1 <<< 31) ||| (slice (u32 imm) 1 10 <<< 21) ||| (slice (u32 imm) 11 1 <<< 20) |||
      (slice (u32 imm) 12 8 <<< 12) ||| (u32 rd <<< 7) = layoutJ rd imm := by
  unfold layoutJ
  rw [u32_of_regLegal hrd, patternOf_eq_setWidth 21 imm (by decide)]
  generalize patternOf 5 rd = p0
  generalize u32 imm = p1
  apply BitVec.eq_of_getLsbD_eq
  intro k hk
  simp only [BitVec.getLsbD_or, BitVec.getLsbD_shiftLeft, BitVec.getLsbD_append, BitVec.getLsbD_setWidth, BitVec.getLsbD_extractLsb',
      BitVec.getLsbD_zero]
  interval_cases k <;> simp

theorem scatterR_eq_layout {rd rs1 rs2 : Int} (hrd : regLegal rd = true) (hrs1 : regLegal rs1 = true) (hrs2 : regLegal rs2 = true) :
    (u32 rs2 <<< 20) ||| (u32 rs1 <<< 15) ||| (u32 rd <<< 7) = layoutR rd rs1 rs2 := by
  unfold layoutR
  rw [u32_of_regLegal hrd, u32_of_regLegal hrs1, u32_of_regLegal hrs2]
  generalize patternOf 5 rd = p0
  generalize patternOf 5 rs1 = p1
  generalize patternOf 5 rs2 = p2
  apply BitVec.eq_of_getLsbD_eq
  intro k hk
  simp only [BitVec.getLsbD_or, BitVec.getLsbD_shiftLeft, BitVec.getLsbD_append, BitVec.getLsbD_setWidth, BitVec.getLsbD_zero]
  interval_cases k <;> simp

theorem scatterS_eq_layout {rs1 rs2 imm : Int} (hrs1 : regLegal rs1 = true) (hrs2 : regLegal rs2 = true) :
    (slice (u32 imm) 5 7 <<< 25) ||| (u32 rs2 <<< 20) ||| (u32 rs1 <<< 15) ||| (slice (u32 imm) 0 5 <<< 7) = layoutS rs1 rs2 imm := by
  unfold layoutS
  rw [u32_of_regLegal hrs1, u32_of_regLegal hrs2, patternOf_eq_setWidth 12 imm (by decide)]
  generalize patternOf 5 rs1 = p0
  generalize patternOf 5 rs2 = p1
  generalize u32 imm = p2
  apply BitVec.eq_of_getLsbD_eq
  intro k hk
  simp only [BitVec.getLsbD_or, BitVec.getLsbD_shiftLeft, BitVec.getLsbD_append, BitVec.getLsbD_setWidth, BitVec.getLsbD_extractLsb',
      BitVec.getLsbD_zero]
  interval_cases k <;> simp

theorem scatterI_eq_layout {rd rs1 imm : Int} (hrd : regLegal rd = true) (hrs1 : regLegal rs1 = true) :
    (slice (u32 imm) 0 12 <<< 20) ||| (u32 rs1 <<< 15) ||| (u32 rd <<< 7) = layoutI rd rs1 imm := by
  unfold layoutI
  rw [u32_of_regLegal hrd, u32_of_regLegal hrs1, patternOf_eq_setWidth 12 imm (by decide)]
  generalize patternOf 5 rd = p0
  generalize patternOf 5 rs1 = p1
  generalize u32 imm = p2
  apply BitVec.eq_of_getLsbD_eq
  intro k hk
  simp only [BitVec.getLsbD_or, BitVec.getLsbD_shiftLeft, BitVec.getLsbD_append, BitVec.getLsbD_setWidth, BitVec.getLsbD_extractLsb',
      BitVec.getLsbD_zero]
  interval_cases k <;> simp

theorem scatterIshift_eq_layout {rd rs1 shamt : Int} (hrd : regLegal rd = true) (hrs1 : regLegal rs1 = true) (hshamt : shamtLegal shamt = true) :
    (slice (u32 shamt) 0 12 <<< 20) ||| (u32 rs1 <<< 15) ||| (u32 rd <<< 7) = layoutIshift rd rs1 shamt := by
  unfold layoutIshift
  rw [u32_of_regLegal hrd, u32_of_regLegal hrs1, u32_of_shamtLegal hshamt]
  generalize patternOf 5 rd = p0
  generalize patternOf 5 rs1 = p1
  generalize patternOf 6 shamt = p2
  apply BitVec.eq_of_getLsbD_eq
  intro k hk
  simp only [BitVec.getLsbD_or, BitVec.getLsbD_shiftLeft, BitVec.getLsbD_append, BitVec.getLsbD_setWidth, BitVec.getLsbD_extractLsb',
      BitVec.getLsbD_zero]
  interval_cases k <;> simp

theorem scatterU_eq_layout {rd imm : Int} (hrd : regLegal rd = true) :
    (slice (u32 imm) 0 20 <<< 12) ||| (u32 rd <<< 7) = layoutU rd imm := by
  unfold layoutU
  rw [u32_of_regLegal hrd, patternOf_eq_setWidth 20 imm (by decide)]
  generalize patternOf 5 rd = p0
  generalize u32 imm = p1
  apply BitVec.eq_of_getLsbD_eq
  intro k hk
  simp only [BitVec.getLsbD_or, BitVec.getLsbD_shiftLeft, BitVec.getLsbD_append, BitVec.getLsbD_setWidth, BitVec.getLsbD_extractLsb',
      BitVec.getLsbD_zero]
  interval_cases k <;> simp

theorem scatterB_eq_layout {rs1 rs2 imm : Int} (hrs1 : regLegal rs1 = true) (hrs2 : regLegal rs2 = true) :
    (slice (u32 imm) 12 1 <<< 31) ||| (slice (u32 imm) 5 6 <<< 25) ||| (u32 rs2 <<< 20) ||| (u32 rs1 <<< 15) |||
      (slice (u32 imm) 1 4 <<< 8) ||| (slice (u32 imm) 11 1 <<< 7) = layoutB rs1 rs2 imm := by
  unfold layoutB
  rw [u32_of_regLegal hrs1, u32_of_regLegal hrs2, patternOf_eq_setWidth 13 imm (by decide)]
  generalize patternOf 5 rs1 = p0
  generalize patternOf 5 rs2 = p1
  generalize u32 imm = p2
  apply BitVec.eq_of_getLsbD_eq
  intro k hk
  simp only [BitVec.getLsbD_or, BitVec.getLsbD_shiftLeft, BitVec.getLsbD_append, BitVec.getLsbD_setWidth, BitVec.getLsbD_extractLsb',
      BitVec.getLsbD_zero]
  interval_cases k <;> simp

theorem scatterCSR_eq_layout {rd rs1 csr : Int} (hrd : regLegal rd = true) (hrs1 : regLegal rs1 = true) (hcsr : csrLegal csr = true) :
    (u32 csr <<< 20) ||| (u32 rs1 <<< 15) ||| (u32 rd <<< 7) = layoutCSR rd rs1 csr := by
  unfold layoutCSR
  rw [u32_of_regLegal hrd, u32_of_regLegal hrs1, u32_of_csrLegal hcsr]
  generalize patternOf 5 rd = p0
  generalize patternOf 5 rs1 = p1
  generalize patternOf 12 csr = p2
  apply BitVec.eq_of_getLsbD_eq
  intro k hk
  simp only [BitVec.getLsbD_or, BitVec.getLsbD_shiftLeft, BitVec.getLsbD_append, BitVec.getLsbD_setWidth, BitVec.getLsbD_zero]
  interval_cases k <;> simp

theorem scatterCSRI_eq_layout {rd imm csr : Int} (hrd : regLegal rd = true) (hcsr : csrLegal csr = true) :
    (u32 csr <<< 20) ||| (slice (u32 imm) 0 5 <<< 15) ||| (u32 rd <<< 7) = layoutCSRI rd imm csr := by
  unfold layoutCSRI
  rw [u32_of_regLegal hrd, u32_of_csrLegal hcsr, patternOf_eq_setWidth 5 imm (by decide)]
  generalize patternOf 5 rd = p0
  generalize patternOf 12 csr = p1
  generalize u32 imm = p2
  apply BitVec.eq_of_getLsbD_eq
  intro k hk
  simp only [BitVec.getLsbD_or, BitVec.getLsbD_shiftLeft, BitVec.getLsbD_append, BitVec.getLsbD_setWidth, BitVec.getLsbD_extractLsb',
      BitVec.getLsbD_zero]
  interval_cases k <;> simp

end Sys2Proof.Machine
end

