-- ==== Sys2Proof/Laws/Formats.lean ====
section
/-! SUPPORT. Everything each format encoder can answer (41_formats.md R95 to R103): the first failing check's record, or the word
with its slices in place. The primitives' preconditions are discharged here, once (40_primitives.md R85). -/

namespace Sys2Proof.Machine

/-- The binds of the encoder monad that the lemmas below step through. -/
theorem ok_bind {α β : Type} (a : α) (k : α → Checked β) : ((.ok a : Checked α) >>= k) = k a := rfl

theorem assembleJ_eq (m : Word) (rd imm : Int) :
    assembleJ m rd imm =
      if regLegal rd = false then failing .rd rd 5 .range
      else if imm % 2 ≠ 0 then failing .imm imm 21 .alignment
      else if immJLegal imm = false then failing .imm imm 21 .range
      else .ok ((slice (u32 imm) 20 1 <<< 31) ||| (slice (u32 imm) 1 10 <<< 21) ||| (slice (u32 imm) 11 1 <<< 20) |||
        (slice (u32 imm) 12 8 <<< 12) ||| (u32 rd <<< 7) ||| m) := by
  unfold assembleJ
  rw [checkReg_bind]
  refine ite_congr rfl (fun _ => rfl) fun h => ?_
  rw [checkEven_bind]
  refine ite_congr rfl (fun _ => rfl) fun h => ?_
  rw [checkSignedJ_bind _ (not_not.mp h)]
  refine ite_congr rfl (fun _ => rfl) fun h => ?_
  dsimp only
  rw [bit_ok _ 20 (by decide), ok_bind, bits_ok _ 10 1 (by decide) (by decide), ok_bind, bit_ok _ 11 (by decide), ok_bind, bits_ok _ 19 12 (by decide) (by decide), ok_bind]
  rfl

theorem assembleR_eq (m : Word) (rd rs1 rs2 : Int) :
    assembleR m rd rs1 rs2 =
      if regLegal rd = false then failing .rd rd 5 .range
      else if regLegal rs1 = false then failing .rs1 rs1 5 .range
      else if regLegal rs2 = false then failing .rs2 rs2 5 .range
      else .ok ((u32 rs2 <<< 20) ||| (u32 rs1 <<< 15) ||| (u32 rd <<< 7) ||| m) := by
  unfold assembleR
  rw [checkReg_bind]
  refine ite_congr rfl (fun _ => rfl) fun h => ?_
  rw [checkReg_bind]
  refine ite_congr rfl (fun _ => rfl) fun h => ?_
  rw [checkReg_bind]
  refine ite_congr rfl (fun _ => rfl) fun h => ?_
  rfl

theorem assembleS_eq (accepts : Bool) (m : Word) (rs1 rs2 imm : Int) :
    assembleS accepts m rs1 rs2 imm =
      if regLegal rs1 = false then failing .rs1 rs1 5 .range
      else if regLegal rs2 = false then failing .rs2 rs2 5 .range
      else if imm12Legal accepts imm = false then failing .imm imm 12 .range
      else .ok ((slice (u32 imm) 5 7 <<< 25) ||| (u32 rs2 <<< 20) ||| (u32 rs1 <<< 15) ||| (slice (u32 imm) 0 5 <<< 7) ||| m) := by
  unfold assembleS
  rw [checkReg_bind]
  refine ite_congr rfl (fun _ => rfl) fun h => ?_
  rw [checkReg_bind]
  refine ite_congr rfl (fun _ => rfl) fun h => ?_
  rw [checkImm12_bind]
  refine ite_congr rfl (fun _ => rfl) fun h => ?_
  dsimp only
  rw [bits_ok _ 11 5 (by decide) (by decide), ok_bind, bits_ok _ 4 0 (by decide) (by decide), ok_bind]
  rfl

theorem assembleI_eq (accepts : Bool) (m : Word) (rd rs1 imm : Int) :
    assembleI accepts m rd rs1 imm =
      if regLegal rd = false then failing .rd rd 5 .range
      else if regLegal rs1 = false then failing .rs1 rs1 5 .range
      else if imm12Legal accepts imm = false then failing .imm imm 12 .range
      else .ok ((slice (u32 imm) 0 12 <<< 20) ||| (u32 rs1 <<< 15) ||| (u32 rd <<< 7) ||| m) := by
  unfold assembleI
  rw [checkReg_bind]
  refine ite_congr rfl (fun _ => rfl) fun h => ?_
  rw [checkReg_bind]
  refine ite_congr rfl (fun _ => rfl) fun h => ?_
  rw [checkImm12_bind]
  refine ite_congr rfl (fun _ => rfl) fun h => ?_
  dsimp only
  rw [bits_ok _ 11 0 (by decide) (by decide), ok_bind]
  rfl

theorem assembleIshift_eq (accepts : Bool) (m : Word) (rd rs1 shamt : Int) :
    assembleIshift accepts m rd rs1 shamt =
      if regLegal rd = false then failing .rd rd 5 .range
      else if regLegal rs1 = false then failing .rs1 rs1 5 .range
      else if imm12Legal accepts shamt = false then failing .imm shamt 12 .range
      else if shamtLegal shamt = false then failing .shamt shamt 6 .range
      else .ok ((slice (u32 shamt) 0 12 <<< 20) ||| (u32 rs1 <<< 15) ||| (u32 rd <<< 7) ||| m) := by
  unfold assembleIshift
  rw [checkReg_bind]
  refine ite_congr rfl (fun _ => rfl) fun h => ?_
  rw [checkReg_bind]
  refine ite_congr rfl (fun _ => rfl) fun h => ?_
  rw [checkImm12_bind]
  refine ite_congr rfl (fun _ => rfl) fun h => ?_
  rw [checkShamt_bind]
  refine ite_congr rfl (fun _ => rfl) fun h => ?_
  rw [bits_ok _ 11 0 (by decide) (by decide), ok_bind]
  rfl

theorem assembleU_eq (m : Word) (rd imm : Int) :
    assembleU m rd imm =
      if regLegal rd = false then failing .rd rd 5 .range
      else if immULegal imm = false then failing .imm imm 20 .range
      else .ok ((slice (u32 imm) 0 20 <<< 12) ||| (u32 rd <<< 7) ||| m) := by
  unfold assembleU
  rw [checkReg_bind]
  refine ite_congr rfl (fun _ => rfl) fun h => ?_
  rw [checkUnsigned20_bind]
  refine ite_congr rfl (fun _ => rfl) fun h => ?_
  rw [bits_ok _ 19 0 (by decide) (by decide), ok_bind]
  rfl

theorem assembleB_eq (m : Word) (rs1 rs2 imm : Int) :
    assembleB m rs1 rs2 imm =
      if regLegal rs1 = false then failing .rs1 rs1 5 .range
      else if regLegal rs2 = false then failing .rs2 rs2 5 .range
      else if imm % 2 ≠ 0 then failing .imm imm 13 .alignment
      else if immBLegal imm = false then failing .imm imm 13 .range
      else .ok ((slice (u32 imm) 12 1 <<< 31) ||| (slice (u32 imm) 5 6 <<< 25) ||| (u32 rs2 <<< 20) ||| (u32 rs1 <<< 15) |||
        (slice (u32 imm) 1 4 <<< 8) ||| (slice (u32 imm) 11 1 <<< 7) ||| m) := by
  unfold assembleB
  rw [checkReg_bind]
  refine ite_congr rfl (fun _ => rfl) fun h => ?_
  rw [checkReg_bind]
  refine ite_congr rfl (fun _ => rfl) fun h => ?_
  rw [checkEven_bind]
  refine ite_congr rfl (fun _ => rfl) fun h => ?_
  rw [checkSignedB_bind _ (not_not.mp h)]
  refine ite_congr rfl (fun _ => rfl) fun h => ?_
  dsimp only
  rw [bit_ok _ 12 (by decide), ok_bind, bits_ok _ 10 5 (by decide) (by decide), ok_bind, bits_ok _ 4 1 (by decide) (by decide), ok_bind, bit_ok _ 11 (by decide), ok_bind]
  rfl

theorem assembleCSR_eq (m : Word) (rd rs1 csr : Int) :
    assembleCSR m rd rs1 csr =
      if regLegal rd = false then failing .rd rd 5 .range
      else if regLegal rs1 = false then failing .rs1 rs1 5 .range
      else if csrLegal csr = false then failing .csr csr 12 .range
      else .ok ((u32 csr <<< 20) ||| (u32 rs1 <<< 15) ||| (u32 rd <<< 7) ||| m) := by
  unfold assembleCSR
  rw [checkReg_bind]
  refine ite_congr rfl (fun _ => rfl) fun h => ?_
  rw [checkReg_bind]
  refine ite_congr rfl (fun _ => rfl) fun h => ?_
  rw [checkCsr_bind]
  refine ite_congr rfl (fun _ => rfl) fun h => ?_
  rfl

theorem assembleCSRI_eq (m : Word) (rd imm csr : Int) :
    assembleCSRI m rd imm csr =
      if regLegal rd = false then failing .rd rd 5 .range
      else if uimm5Legal imm = false then failing .imm imm 5 .range
      else if csrLegal csr = false then failing .csr csr 12 .range
      else .ok ((u32 csr <<< 20) ||| (slice (u32 imm) 0 5 <<< 15) ||| (u32 rd <<< 7) ||| m) := by
  unfold assembleCSRI
  rw [checkReg_bind]
  refine ite_congr rfl (fun _ => rfl) fun h => ?_
  rw [checkUnsigned5_bind]
  refine ite_congr rfl (fun _ => rfl) fun h => ?_
  rw [checkCsr_bind]
  refine ite_congr rfl (fun _ => rfl) fun h => ?_
  rw [bits_ok _ 4 0 (by decide) (by decide), ok_bind]
  rfl

end Sys2Proof.Machine
end

