-- ==== Sys2Proof/Laws/PerInstr.lean ====
section
/-! SUPPORT. Facts about every request as syntax, one lemma per constructor of `Instr`. Family `RowPattern`: an encoded well-formed
request carries its match and nothing else in the match-supplied bits of its format (30_encoding.md R66), and a named one meets the
mask and match of its own row (R80). -/

namespace Sys2Proof.Laws.RowPattern

open Sys2Proof

/-- The word of a well-formed request has the request's match in its match-supplied bits, its operands in its field bits, and, where
the request is a named one, meets its own row of R79 and R80. -/
def Statement (i : Instr) : Prop :=
  i.wellFormed = true →
    encodeWord i &&& matchBits i.format = i.matchIn defaultTable ∧ encodeWord i &&& fieldMask i.format = i.layoutBits ∧
      ∀ m : Mnemonic, i.mnemonic = some m → matchesRow (encodeWord i) m = true

/-- The statement of any request; the lemmas below are its cases. -/
theorem of_request (i : Instr) : Statement i := fun h =>
  have free := matchIn_free (i := i) (by simp only [Instr.wellFormed, Bool.and_eq_true] at h; exact h.2)
  ⟨layoutBits_or_and_matchBits free, layoutBits_or_and_fieldMask free, fun _ hm => matchesRow_layoutBits i hm⟩

theorem ld (rd rs1 imm : Int) : Statement (.ld rd rs1 imm) := of_request _
theorem lw (rd rs1 imm : Int) : Statement (.lw rd rs1 imm) := of_request _
theorem lh (rd rs1 imm : Int) : Statement (.lh rd rs1 imm) := of_request _
theorem lb (rd rs1 imm : Int) : Statement (.lb rd rs1 imm) := of_request _
theorem flw (rd rs1 imm : Int) : Statement (.flw rd rs1 imm) := of_request _
theorem fld (rd rs1 imm : Int) : Statement (.fld rd rs1 imm) := of_request _
theorem sd (rs1 rs2 imm : Int) : Statement (.sd rs1 rs2 imm) := of_request _
theorem sw (rs1 rs2 imm : Int) : Statement (.sw rs1 rs2 imm) := of_request _
theorem sh (rs1 rs2 imm : Int) : Statement (.sh rs1 rs2 imm) := of_request _
theorem sb (rs1 rs2 imm : Int) : Statement (.sb rs1 rs2 imm) := of_request _
theorem fsw (rs1 rs2 imm : Int) : Statement (.fsw rs1 rs2 imm) := of_request _
theorem fsd (rs1 rs2 imm : Int) : Statement (.fsd rs1 rs2 imm) := of_request _
theorem addi (rd rs1 imm : Int) : Statement (.addi rd rs1 imm) := of_request _
theorem andi (rd rs1 imm : Int) : Statement (.andi rd rs1 imm) := of_request _
theorem ori (rd rs1 imm : Int) : Statement (.ori rd rs1 imm) := of_request _
theorem xori (rd rs1 imm : Int) : Statement (.xori rd rs1 imm) := of_request _
theorem slli (rd rs1 shamt : Int) : Statement (.slli rd rs1 shamt) := of_request _
theorem srli (rd rs1 shamt : Int) : Statement (.srli rd rs1 shamt) := of_request _
theorem lui (rd imm : Int) : Statement (.lui rd imm) := of_request _
theorem jal (rd imm : Int) : Statement (.jal rd imm) := of_request _
theorem csrrw (rd rs1 csr : Int) : Statement (.csrrw rd rs1 csr) := of_request _
theorem csrrs (rd rs1 csr : Int) : Statement (.csrrs rd rs1 csr) := of_request _
theorem csrrc (rd rs1 csr : Int) : Statement (.csrrc rd rs1 csr) := of_request _
theorem csrrwi (rd imm csr : Int) : Statement (.csrrwi rd imm csr) := of_request _
theorem csrrsi (rd imm csr : Int) : Statement (.csrrsi rd imm csr) := of_request _
theorem csrrci (rd imm csr : Int) : Statement (.csrrci rd imm csr) := of_request _
theorem ebreak : Statement .ebreak := of_request _
theorem cEbreak : Statement .cEbreak := of_request _
theorem dret : Statement .dret := of_request _
theorem fenceI : Statement .fenceI := of_request _
theorem encJ (m : Word) (rd imm : Int) : Statement (.encJ m rd imm) := of_request _
theorem encR (m : Word) (rd rs1 rs2 : Int) : Statement (.encR m rd rs1 rs2) := of_request _
theorem encS (m : Word) (rs1 rs2 imm : Int) : Statement (.encS m rs1 rs2 imm) := of_request _
theorem encI (m : Word) (rd rs1 imm : Int) : Statement (.encI m rd rs1 imm) := of_request _
theorem encIshift (m : Word) (rd rs1 shamt : Int) : Statement (.encIshift m rd rs1 shamt) := of_request _
theorem encU (m : Word) (rd imm : Int) : Statement (.encU m rd imm) := of_request _
theorem encB (m : Word) (rs1 rs2 imm : Int) : Statement (.encB m rs1 rs2 imm) := of_request _
theorem encCSR (m : Word) (rd rs1 csr : Int) : Statement (.encCSR m rd rs1 csr) := of_request _
theorem encCSRI (m : Word) (rd imm csr : Int) : Statement (.encCSRI m rd imm csr) := of_request _

end Sys2Proof.Laws.RowPattern
end

