-- ==== Sys2Proof/Machine/Flags.lean ====
section
/-! DEFINITION. The block has no flags, condition codes or predicates: "No request reads or writes any" (10_state.md R29), and the
"flags written" entry of every rule is none (41_formats.md R93). There is no flag computation to define, and this file holds
none. -/
end

