-- ==== Sys2Proof/Tests/Slice0.lean ====
section
/-! SUPPORT. Tests. Expected words and records are the vectors of spec/95_test_vectors.md, named beside each test by their id there; decode
words are written out from the encodings of 30_encoding.md (a 40-bit image is a word under the selector byte of assumption 4). After them, one
witness for every statement that has hypotheses. -/

namespace Sys2Proof.Tests

open Sys2Proof Sys2Proof.Machine

/-- A state with the default match table, the given flag and empty ports. -/
def quiet (accepts : Bool) : State := ⟨⟨defaultTable, accepts⟩, [], []⟩

/-- A configuration that breaks the premise of 10_state.md R33: the match of `addi` has bit 7, a bit of rd. -/
def illFormed : State := ⟨⟨{ defaultTable with addi := 0x00000093#32 }, false⟩, [], []⟩

/-- The newest result, where a step or a request answers a next state. -/
def newest : Host.Outcome State Fault Refusal → Option Result
  | .next t => t.results.getLast?
  | _ => none

/-- The result of a request under the default table. -/
def ask (accepts : Bool) (i : Instr) : Option Result := newest (exec i (quiet accepts))

/-- A failure record as a result. -/
def failed (field : Field) (value : Int) (width : Nat) (reason : Reason) : Option Result :=
  some (.invalidOperand ⟨field, value, width, reason⟩)

/-! ### Every constructor: its word decodes to it, and it gives its word -/

/-- TI15 -/
theorem test_ld : decodeTableWord 32 0x01013403 = some (.ld 8 2 16) ∧ ask false (.ld 8 2 16) = some (.ok 0x01013403#32) := by decide
/-- TI16 -/
theorem test_lw : decodeTableWord 32 0xFFC12503 = some (.lw 10 2 (-4)) ∧ ask false (.lw 10 2 (-4)) = some (.ok 0xFFC12503#32) := by decide
/-- TI17 -/
theorem test_lh : decodeTableWord 32 0x00211083 = some (.lh 1 2 2) ∧ ask false (.lh 1 2 2) = some (.ok 0x00211083#32) := by decide
/-- TI18 -/
theorem test_lb : decodeTableWord 32 0xFFF20183 = some (.lb 3 4 (-1)) ∧ ask false (.lb 3 4 (-1)) = some (.ok 0xFFF20183#32) := by decide
/-- TI19 -/
theorem test_flw : decodeTableWord 32 0x00812007 = some (.flw 0 2 8) ∧ ask false (.flw 0 2 8) = some (.ok 0x00812007#32) := by decide
/-- TI20 -/
theorem test_fld : decodeTableWord 32 0xFF813F87 = some (.fld 31 2 (-8)) ∧ ask false (.fld 31 2 (-8)) = some (.ok 0xFF813F87#32) := by decide
/-- TS2 -/
theorem test_sd : decodeTableWord 32 0xFE813C23 = some (.sd 2 8 (-8)) ∧ ask false (.sd 2 8 (-8)) = some (.ok 0xFE813C23#32) := by decide
/-- TS1 -/
theorem test_sw : decodeTableWord 32 0x00812223 = some (.sw 2 8 4) ∧ ask false (.sw 2 8 4) = some (.ok 0x00812223#32) := by decide
/-- TS5 -/
theorem test_sh : decodeTableWord 32 0xFFFF9FA3 = some (.sh 31 31 (-1)) ∧ ask false (.sh 31 31 (-1)) = some (.ok 0xFFFF9FA3#32) := by decide
/-- TS3 -/
theorem test_sb : decodeTableWord 32 0x7E000FA3 = some (.sb 0 0 2047) ∧ ask false (.sb 0 0 2047) = some (.ok 0x7E000FA3#32) := by decide
/-- TS7 -/
theorem test_fsw : decodeTableWord 32 0x00012227 = some (.fsw 2 0 4) ∧ ask false (.fsw 2 0 4) = some (.ok 0x00012227#32) := by decide
/-- TS8 -/
theorem test_fsd : decodeTableWord 32 0x01F43827 = some (.fsd 8 31 16) ∧ ask false (.fsd 8 31 16) = some (.ok 0x01F43827#32) := by decide
/-- TI1, W1 -/
theorem test_addi : decodeTableWord 32 0x00400293 = some (.addi 5 0 4) ∧ ask false (.addi 5 0 4) = some (.ok 0x00400293#32) := by decide
/-- TI12 -/
theorem test_andi : decodeTableWord 32 0x0FF0F093 = some (.andi 1 1 255) ∧ ask false (.andi 1 1 255) = some (.ok 0x0FF0F093#32) := by decide
/-- TI13 -/
theorem test_ori : decodeTableWord 32 0xFFF06113 = some (.ori 2 0 (-1)) ∧ ask false (.ori 2 0 (-1)) = some (.ok 0xFFF06113#32) := by decide
/-- TI14 -/
theorem test_xori : decodeTableWord 32 0xFFF14093 = some (.xori 1 2 (-1)) ∧ ask false (.xori 1 2 (-1)) = some (.ok 0xFFF14093#32) := by decide
/-- TH2 -/
theorem test_slli : decodeTableWord 32 0x03F09093 = some (.slli 1 1 63) ∧ ask false (.slli 1 1 63) = some (.ok 0x03F09093#32) := by decide
/-- TH3 -/
theorem test_srli : decodeTableWord 32 0x0201D113 = some (.srli 2 3 32) ∧ ask false (.srli 2 3 32) = some (.ok 0x0201D113#32) := by decide
/-- TU1 -/
theorem test_lui : decodeTableWord 32 0x123452B7 = some (.lui 5 0x12345) ∧ ask false (.lui 5 0x12345) = some (.ok 0x123452B7#32) := by decide
/-- TJ2 -/
theorem test_jal : decodeTableWord 32 0xFFDFF0EF = some (.jal 1 (-4)) ∧ ask false (.jal 1 (-4)) = some (.ok 0xFFDFF0EF#32) := by decide
/-- TC1 -/
theorem test_csrrw : decodeTableWord 32 0x7B241073 = some (.csrrw 0 8 0x7B2) ∧ ask false (.csrrw 0 8 0x7B2) = some (.ok 0x7B241073#32) := by decide
/-- TC2 -/
theorem test_csrrs : decodeTableWord 32 0x7B202473 = some (.csrrs 8 0 0x7B2) ∧ ask false (.csrrs 8 0 0x7B2) = some (.ok 0x7B202473#32) := by decide
/-- TC3 -/
theorem test_csrrc : decodeTableWord 32 0xFFF130F3 = some (.csrrc 1 2 0xFFF) ∧ ask false (.csrrc 1 2 0xFFF) = some (.ok 0xFFF130F3#32) := by decide
/-- TK1 -/
theorem test_csrrwi : decodeTableWord 32 0x7B0FD073 = some (.csrrwi 0 31 0x7B0) ∧ ask false (.csrrwi 0 31 0x7B0) = some (.ok 0x7B0FD073#32) := by decide
/-- TK2 -/
theorem test_csrrsi : decodeTableWord 32 0x30026073 = some (.csrrsi 0 4 0x300) ∧ ask false (.csrrsi 0 4 0x300) = some (.ok 0x30026073#32) := by decide
/-- TK4 -/
theorem test_csrrci : decodeTableWord 32 0xFFFFFFF3 = some (.csrrci 31 31 0xFFF) ∧ ask false (.csrrci 31 31 0xFFF) = some (.ok 0xFFFFFFF3#32) := by decide
/-- TX1, W5 -/
theorem test_ebreak : decodeTableWord 32 0x00100073 = some .ebreak ∧ ask false .ebreak = some (.ok 0x00100073#32) := by decide
/-- TX2 -/
theorem test_cEbreak : decodeTableWord 16 0x9002 = some .cEbreak ∧ ask false .cEbreak = some (.ok 0x00009002#32) := by decide
/-- TX3 -/
theorem test_dret : decodeTableWord 32 0x7B200073 = some .dret ∧ ask false .dret = some (.ok 0x7B200073#32) := by decide
/-- TX4 -/
theorem test_fenceI : decodeTableWord 32 0x0000100F = some .fenceI ∧ ask false .fenceI = some (.ok 0x0000100F#32) := by decide
/-- TJ5 -/
theorem test_encJ : decodeTableWord 40 0x0180000F80 = some (.encJ 0#32 31 (-1048576)) ∧ ask false (.encJ 0#32 31 (-1048576)) = some (.ok 0x80000F80#32) := by decide
/-- TR1 -/
theorem test_encR : decodeTableWord 40 0x02003100B3 = some (.encR 0x00000033#32 1 2 3) ∧ ask false (.encR 0x00000033#32 1 2 3) = some (.ok 0x003100B3#32) := by decide
/-- TS1 -/
theorem test_encS : decodeTableWord 40 0x0300810200 = some (.encS 0#32 2 8 4) ∧ ask false (.encS 0#32 2 8 4) = some (.ok 0x00810200#32) := by decide
/-- TI1 -/
theorem test_encI : decodeTableWord 40 0x0400400280 = some (.encI 0#32 5 0 4) ∧ ask false (.encI 0#32 5 0 4) = some (.ok 0x00400280#32) := by decide
/-- TH2 -/
theorem test_encIshift : decodeTableWord 40 0x0503F08080 = some (.encIshift 0#32 1 1 63) ∧ ask false (.encIshift 0#32 1 1 63) = some (.ok 0x03F08080#32) := by decide
/-- TU4 -/
theorem test_encU : decodeTableWord 40 0x0680000000 = some (.encU 0#32 0 0x80000) ∧ ask false (.encU 0#32 0 0x80000) = some (.ok 0x80000000#32) := by decide
/-- TB1 -/
theorem test_encB : decodeTableWord 40 0x07FE029EE3 = some (.encB 0x00001063#32 5 0 (-4)) ∧ ask false (.encB 0x00001063#32 5 0 (-4)) = some (.ok 0xFE029EE3#32) := by decide
/-- TC2 -/
theorem test_encCSR : decodeTableWord 40 0x087B200400 = some (.encCSR 0#32 8 0 0x7B2) ∧ ask false (.encCSR 0#32 8 0 0x7B2) = some (.ok 0x7B200400#32) := by decide
/-- TK2 -/
theorem test_encCSRI : decodeTableWord 40 0x0930020000 = some (.encCSRI 0#32 0 4 0x300) ∧ ask false (.encCSRI 0#32 0 4 0x300) = some (.ok 0x30020000#32) := by decide

/-! ### Failures and boundaries -/

/-- TJ11, TJ13, TJ15: alignment before range, registers before both. -/
theorem test_jal_checks : ask false (.jal 0 7) = failed .imm 7 21 .alignment ∧
    ask false (.jal 0 2097153) = failed .imm 2097153 21 .alignment ∧ ask false (.jal 32 7) = failed .rd 32 5 .range := by decide

/-- TJ4, TJ9, TJ10 -/
theorem test_encJ_bounds : ask false (.encJ 0#32 31 1048574) = some (.ok 0x7FFFFF80#32) ∧
    ask false (.encJ 0#32 0 1048576) = failed .imm 1048576 21 .range ∧
    ask false (.encJ 0#32 0 (-1048578)) = failed .imm (-1048578) 21 .range := by decide

/-- TR4, TR5, TR6 -/
theorem test_encR_checks : ask false (.encR 0x33#32 0 0 32) = failed .rs2 32 5 .range ∧
    ask false (.encR 0x33#32 32 32 32) = failed .rd 32 5 .range ∧ ask false (.encR 0x33#32 (-1) 0 0) = failed .rd (-1) 5 .range := by decide

/-- TS12, TS14 and, with the flag, the vector under section 2.5. -/
theorem test_fsd_band : ask false (.fsd 0 0 4095) = failed .imm 4095 12 .range ∧ ask false (.sd 0 32 0) = failed .rs2 32 5 .range ∧
    ask true (.fsd 0 0 4095) = some (.ok 0xFE003FA7#32) := by decide

/-- TI7, TI8, TI9 and, with the flag, the vectors under section 2.5. -/
theorem test_addi_band : ask false (.addi 0 0 2048) = failed .imm 2048 12 .range ∧ ask false (.addi 0 0 (-2049)) = failed .imm (-2049) 12 .range ∧
    ask true (.addi 0 0 2048) = some (.ok 0x80000013#32) ∧ ask true (.addi 0 0 4096) = failed .imm 4096 12 .range := by decide

/-- TH5, TH6, TH7, TH8: the 12-bit check before the shift check. -/
theorem test_slli_checks : ask false (.slli 1 1 64) = failed .shamt 64 6 .range ∧ ask false (.slli 1 1 5000) = failed .imm 5000 12 .range ∧
    ask false (.slli 1 1 (-1)) = failed .shamt (-1) 6 .range ∧ ask false (.slli 1 1 2048) = failed .imm 2048 12 .range := by decide

/-- The vector under section 2.6: with the flag 2048 passes the 12-bit check and fails the shift check. -/
theorem test_srli_band : ask true (.srli 1 1 2048) = failed .shamt 2048 6 .range := by decide

/-- TU2, TU5, TU6 -/
theorem test_lui_bounds : ask false (.lui 31 0xFFFFF) = some (.ok 0xFFFFFFB7#32) ∧ ask false (.lui 0 0x100000) = failed .imm 1048576 20 .range ∧
    ask false (.lui 0 (-1)) = failed .imm (-1) 20 .range := by decide

/-- TB2, TB6, TB9, TB11 -/
theorem test_encB_checks : ask false (.encB 0x63#32 1 2 4094) = some (.ok 0x7E208FE3#32) ∧
    ask false (.encB 0x63#32 0 0 4096) = failed .imm 4096 13 .range ∧ ask false (.encB 0x63#32 0 0 4097) = failed .imm 4097 13 .alignment ∧
    ask false (.encB 0x63#32 0 32 3) = failed .rs2 32 5 .range := by decide

/-- TC5, TC6, TC8 -/
theorem test_csrrc_checks : ask false (.csrrw 0 0 0x1000) = failed .csr 4096 12 .range ∧ ask false (.csrrc 0 0 (-1)) = failed .csr (-1) 12 .range ∧
    ask false (.csrrc 0 32 0x1000) = failed .rs1 32 5 .range := by decide

/-- TK5, TK7, TK8 -/
theorem test_csrrwi_checks : ask false (.csrrsi 0 32 0) = failed .imm 32 5 .range ∧ ask false (.csrrwi 0 0 0x1000) = failed .csr 4096 12 .range ∧
    ask false (.csrrwi 0 32 0x1000) = failed .imm 32 5 .range := by decide

/-- The overlapping caller match of section 2.12 is ORed in (R92). -/
theorem test_encI_overlap : ask false (.encI 0xFFFFFFFF#32 0 0 0) = some (.ok 0xFFFFFFFF#32) := by decide

/-- TF1, TF3, TF5, TF7, TF8 -/
theorem test_primitives : bits 0xDEADBEEF#32 15 8 = .ok 0xBE#32 ∧ bits 0xDEADBEEF#32 31 28 = .ok 0xD#32 ∧ bit 0x80000000#32 31 = .ok 1#32 ∧
    bits 1#32 3 4 = .error .contractViolation ∧ bit 1#32 32 = .error .contractViolation := ⟨rfl, rfl, rfl, rfl, rfl⟩

/-- The round-trip table, section 2.11: one word of each format. -/
theorem test_extract : immJOf 0x80000FEF#32 = -1048576 ∧ immBOf 0xFE029EE3#32 = -4 ∧ immSOf 0xFE813C23#32 = -8 ∧ immIOf 0xFFF08093#32 = -1 ∧
    immUOf 0x80000037#32 = 0x80000 ∧ shamtOf 0x0201D113#32 = 32 ∧ csrOf 0xFFF130F3#32 = 0xFFF ∧ uimm5Of 0x7B0FD073#32 = 31 ∧
    opcodeOf 0x00400293#32 = 0x13 := by decide

/-- A placed word is the next step's request, and the first row of program TP1 is its result. -/
theorem test_step : newest (step (State.reset.withFetchWord 32 0x7B241073)) = some (.ok 0x7B241073#32) := by decide

/-- Words of no row, a short image and an unknown selector do not decode. -/
theorem test_decode_refuses : decodeTableWord 32 0x00000000 = none ∧ decodeTableWord 32 0x40009093 = none ∧ decodeTableWord 40 0x0A00000000 = none ∧
    decode [0x93#8, 0x02#8, 0x40#8, 0x00#8] = .error .truncated := by decide

/-! ### WellFormed: an ill-formed term for each check -/

theorem smoke_regLegal : regLegal 0 = true ∧ regLegal 31 = true ∧ regLegal 32 = false ∧ regLegal (-1) = false := by decide
theorem smoke_imm12Legal : imm12Legal false 2047 = true ∧ imm12Legal false 2048 = false ∧ imm12Legal true 4095 = true ∧
    imm12Legal true 4096 = false ∧ imm12Legal true (-2049) = false := by decide
theorem smoke_shamtLegal : shamtLegal 63 = true ∧ shamtLegal 64 = false ∧ shamtLegal (-1) = false := by decide
theorem smoke_immBLegal : immBLegal 4094 = true ∧ immBLegal 4096 = false ∧ immBLegal 3 = false ∧ immBLegal (-4098) = false := by decide
theorem smoke_immULegal : immULegal 1048575 = true ∧ immULegal 1048576 = false ∧ immULegal (-1) = false := by decide
theorem smoke_immJLegal : immJLegal (-1048576) = true ∧ immJLegal 1048576 = false ∧ immJLegal 7 = false ∧ immJLegal (-1048578) = false := by decide
theorem smoke_csrLegal : csrLegal 4095 = true ∧ csrLegal 4096 = false ∧ csrLegal (-1) = false := by decide
theorem smoke_uimm5Legal : uimm5Legal 31 = true ∧ uimm5Legal 32 = false ∧ uimm5Legal (-1) = false := by decide
theorem smoke_matchFree : (Instr.encI 0x00007013#32 0 0 0).wellFormed = true ∧ (Instr.encI 0x00000093#32 0 0 0).wellFormed = false := by decide
theorem smoke_wellFormed : (Instr.sd 0 32 0).wellFormed = false ∧ (Instr.encR 0#32 0 0 32).wellFormed = false ∧
    (Instr.csrrwi 0 32 0).wellFormed = false ∧ (Instr.jal 0 7).wellFormed = false ∧ (Instr.lui 0 (-1)).wellFormed = false ∧
    (Instr.slli 1 1 64).wellFormed = false ∧ (Instr.ld 0 0 2048).wellFormed = false := by decide
theorem smoke_configuration : illFormed.config.wellFormed = false ∧ State.reset.config.wellFormed = true := by decide

/-! ### Witnesses: a state and operands that meet the hypotheses of each statement that has some, and a boundary value for each of its
clauses -/

/-- A well-formed configuration under either flag (the hypothesis of the statements about one encoder or constructor). -/
theorem witness_wellFormed : (quiet false).config.wellFormed = true ∧ (quiet true).config.wellFormed = true := by decide

theorem witness_StepKeepsInvariant : ∃ s s' : State, Inv s ∧ s.requests ≠ [] ∧ step s = .next s' :=
  ⟨State.reset.withFetchWord 32 0x00400293, _, ⟨by decide, fun f h => by cases h⟩, by decide, rfl⟩

theorem witness_StepRunsOldestRequest : (State.reset.withFetchWord 32 0x00400293).requests = .addi 5 0 4 :: [] ∧ State.reset.requests = [] := by
  decide

theorem witness_PlacedWordRunsDecodedRequest : decodeTableWord 32 0x00400293 = some (.addi 5 0 4) ∧
    decodeTableWord 40 0x07FE029EE3 = some (.encB 0x1063#32 5 0 (-4)) := by decide

theorem witness_DecodeEncodeGivesRequestBack : (Instr.ld 31 31 (-2048)).wellFormed = true ∧ (Instr.jal 31 1048574).wellFormed = true ∧
    (Instr.encB 0x1063#32 31 31 (-4096)).wellFormed = true ∧ (Instr.encIshift 0x40005013#32 31 31 63).wellFormed = true := by decide

theorem witness_EncodeDecodeGivesBytesBack : decode [0x93#8, 0x02#8, 0x40#8, 0x00#8, 0x00#8] = .ok (.addi 5 0 4, []) ∧
    Instr.addi 5 0 4 ≠ .fenceI ∧ Instr.addi 5 0 4 ≠ .cEbreak ∧ decode [0x0F#8, 0x10#8, 0x00#8, 0x80#8, 0x00#8] = .ok (.fenceI, []) := by decide

theorem witness_NamedRowsDoNotOverlap : matchesRow 0x00400293#32 .addi = true ∧ matchesRow 0x00100073#32 .ebreak = true := by decide

theorem witness_ProducedWordDecodesToItsRequest : (quiet false).config = Config.standard ∧ (Instr.jal 0 8).mnemonic ≠ none ∧
    exec (.jal 0 8) (quiet false) = .next ((quiet false).deliver (.ok 0x0080006F#32)) := ⟨rfl, by decide, rfl⟩

/-- In and out of the precondition of `bits`, at its edges. -/
theorem witness_BitsExtractsRightAligned : (31 ≤ 31 ∧ 31 < 32) ∧ (0 ≤ 31 ∧ 31 < 32) ∧ ¬(4 ≤ 3 ∧ 3 < 32) ∧ ¬(0 ≤ 32 ∧ 32 < 32) := by decide

theorem witness_BitIsOneBitOfBits : bit 0x80000000#32 31 = .ok 1#32 ∧ bit 0x80000000#32 0 = .ok 0#32 ∧ bit 1#32 32 = .error .contractViolation :=
  ⟨rfl, rfl, rfl⟩

theorem witness_PrimitiveContractFailure : bits 1#32 3 4 = .error .contractViolation ∧ bits 1#32 32 0 = .error .contractViolation := ⟨rfl, rfl⟩

/-! A boundary value of each clause of the results of R95 to R103, against exec. -/

theorem witness_JumpFormatEncoder : expectedJ 0x6F#32 0 1048574 = .ok 0x7FFFF06F#32 ∧ expectedJ 0#32 32 7 = badReg .rd 32 ∧
    expectedJ 0#32 31 7 = .invalidOperand ⟨.imm, 7, 21, .alignment⟩ ∧ expectedJ 0#32 31 1048576 = .invalidOperand ⟨.imm, 1048576, 21, .range⟩ := by
  decide

theorem witness_RegisterFormatEncoder : expectedR 0x33#32 31 31 31 = .ok 0x01FF8FB3#32 ∧ expectedR 0#32 32 32 32 = badReg .rd 32 ∧
    expectedR 0#32 31 32 32 = badReg .rs1 32 ∧ expectedR 0#32 31 31 32 = badReg .rs2 32 := by decide

theorem witness_StoreFormatEncoder : expectedS false 0x23#32 0 0 (-2048) = .ok 0x80000023#32 ∧ expectedS false 0#32 32 32 0 = badReg .rs1 32 ∧
    expectedS false 0#32 31 32 0 = badReg .rs2 32 ∧ expectedS false 0#32 31 31 2048 = .invalidOperand ⟨.imm, 2048, 12, .range⟩ ∧
    expectedS true 0x3027#32 0 0 4095 = .ok 0xFE003FA7#32 := by decide

theorem witness_ImmediateFormatEncoder : expectedI false 0x13#32 31 31 2047 = .ok 0x7FFF8F93#32 ∧ expectedI false 0#32 32 32 0 = badReg .rd 32 ∧
    expectedI false 0#32 31 32 0 = badReg .rs1 32 ∧ expectedI true 0#32 31 31 4096 = .invalidOperand ⟨.imm, 4096, 12, .range⟩ ∧
    expectedI true 0x13#32 0 0 2048 = .ok 0x80000013#32 := by decide

theorem witness_ShiftFormatEncoder : expectedIshift false 0x1013#32 1 1 63 = .ok 0x03F09093#32 ∧ expectedIshift false 0#32 32 32 64 = badReg .rd 32 ∧
    expectedIshift false 0#32 31 32 64 = badReg .rs1 32 ∧ expectedIshift false 0#32 31 31 2048 = .invalidOperand ⟨.imm, 2048, 12, .range⟩ ∧
    expectedIshift false 0#32 31 31 64 = .invalidOperand ⟨.shamt, 64, 6, .range⟩ := by decide

theorem witness_UpperImmediateFormatEncoder : expectedU 0x37#32 31 1048575 = .ok 0xFFFFFFB7#32 ∧ expectedU 0#32 32 (-1) = badReg .rd 32 ∧
    expectedU 0#32 31 (-1) = .invalidOperand ⟨.imm, -1, 20, .range⟩ := by decide

theorem witness_BranchFormatEncoder : expectedB 0x63#32 1 2 (-4096) = .ok 0x80208063#32 ∧ expectedB 0#32 32 32 3 = badReg .rs1 32 ∧
    expectedB 0#32 31 32 3 = badReg .rs2 32 ∧ expectedB 0#32 31 31 4097 = .invalidOperand ⟨.imm, 4097, 13, .alignment⟩ ∧
    expectedB 0#32 31 31 4096 = .invalidOperand ⟨.imm, 4096, 13, .range⟩ := by decide

theorem witness_CsrRegisterFormatEncoder : expectedCSR 0x3073#32 1 2 4095 = .ok 0xFFF130F3#32 ∧ expectedCSR 0#32 32 32 4096 = badReg .rd 32 ∧
    expectedCSR 0#32 31 32 4096 = badReg .rs1 32 ∧ expectedCSR 0#32 31 31 4096 = .invalidOperand ⟨.csr, 4096, 12, .range⟩ := by decide

theorem witness_CsrImmediateFormatEncoder : expectedCSRI 0x7073#32 31 31 4095 = .ok 0xFFFFFFF3#32 ∧ expectedCSRI 0#32 32 32 4096 = badReg .rd 32 ∧
    expectedCSRI 0#32 31 32 4096 = .invalidOperand ⟨.imm, 32, 5, .range⟩ ∧ expectedCSRI 0#32 31 31 4096 = .invalidOperand ⟨.csr, 4096, 12, .range⟩ := by
  decide

theorem witness_LoadConstructors : (quiet false).config.wellFormed = true := witness_wellFormed.1
theorem witness_StoreConstructors : (quiet false).config.wellFormed = true := witness_wellFormed.1
theorem witness_ImmediateAluConstructors : (quiet true).config.wellFormed = true := witness_wellFormed.2
theorem witness_ShiftConstructors : (quiet true).config.wellFormed = true := witness_wellFormed.2
theorem witness_UpperImmediateAndJumpConstructors : (quiet false).config.wellFormed = true := witness_wellFormed.1
theorem witness_CsrRegisterConstructors : (quiet false).config.wellFormed = true := witness_wellFormed.1
theorem witness_CsrImmediateConstructors : (quiet false).config.wellFormed = true := witness_wellFormed.1
theorem witness_ZeroOperandConstructors : (quiet false).config.wellFormed = true := witness_wellFormed.1
theorem witness_NamedRequestIsFormatRequestWithMatch : (quiet false).config.wellFormed = true := witness_wellFormed.1
theorem witness_DefaultConstantWords : (quiet false).config = Config.standard := rfl

theorem witness_LegalRequestYieldsLayoutWithMatch : (quiet true).config.wellFormed = true ∧
    (Instr.addi 31 0 4095).legal (quiet true).config.imm12AcceptsUnsignedAlias = true := by decide

theorem witness_OutOfDomainOperandYieldsNoWord : (quiet false).config.wellFormed = true ∧
    (Instr.addi 31 0 2048).legal (quiet false).config.imm12AcceptsUnsignedAlias = false := by decide

theorem witness_FailureRecordHasListedCause :
    exec (.slli 1 1 64) (quiet false) = .next ((quiet false).deliver (.invalidOperand ⟨.shamt, 64, 6, .range⟩)) ∧
    exec (.slli 1 1 5000) (quiet false) = .next ((quiet false).deliver (.invalidOperand ⟨.imm, 5000, 12, .range⟩)) := ⟨rfl, rfl⟩

theorem witness_OddOffsetFailsAlignment : (quiet false).config.wellFormed = true ∧ regLegal 31 = true ∧ regLegal 0 = true ∧
    (2097153 : Int) % 2 ≠ 0 ∧ (-1 : Int) % 2 ≠ 0 := by decide

theorem witness_SourceBoundaries : (quiet true).config.wellFormed = true ∧ (3 : Int) % 2 ≠ 0 := by decide

theorem witness_EveryRequestGivesOneResult : (quiet false).config.wellFormed = true := witness_wellFormed.1

theorem witness_IllFormedConfigurationRefusedAsWhole : illFormed.config.wellFormed = false ∧
    exec .ebreak illFormed = .refused .illFormedConfiguration := ⟨by decide, rfl⟩

/-- Two states of one configuration that differ in what waits and in what was answered before. -/
theorem witness_ResultIsFunctionOfRequestAlone : ∃ s t : State, s.config.wellFormed = true ∧ s.config = t.config ∧ s ≠ t :=
  ⟨quiet false, { quiet false with requests := [.ebreak], results := [.ok 0#32] }, by decide, rfl, by decide⟩

/-- Two well-formed configurations that differ in the match table. -/
theorem witness_FormatEncoderHasNoHiddenInput : ∃ s t : State, isFormatRequest (.encI 0x13#32 5 0 4) = true ∧ s.config.wellFormed = true ∧
    t.config.wellFormed = true ∧ s.config.imm12AcceptsUnsignedAlias = t.config.imm12AcceptsUnsignedAlias ∧ s.config ≠ t.config :=
  ⟨quiet false, ⟨⟨{ defaultTable with addi := 0x00007013#32 }, false⟩, [], []⟩, by decide⟩

theorem witness_RequestChangesOnlyResultPort : exec (.addi 5 0 4) (quiet false) = .next ((quiet false).deliver (.ok 0x00400293#32)) := rfl

theorem witness_QueueIsAnsweredRequestByRequest : ∃ s : State, s.config.wellFormed = true ∧ 1 < s.requests.length :=
  ⟨{ quiet false with requests := [.slli 1 1 64, .slli 1 1 63] }, by decide⟩

theorem witness_OrderOfRequestsDoesNotMatter : ∃ s t : State, s.config.wellFormed = true ∧ s.config = t.config ∧
    s.requests.Perm t.requests ∧ s.results = [] ∧ t.results = [] ∧ s.requests ≠ t.requests :=
  ⟨{ quiet false with requests := [.ebreak, .jal 0 7] }, { quiet false with requests := [.jal 0 7, .ebreak] },
    by decide, rfl, List.Perm.swap _ _ _, rfl, rfl, by decide⟩

theorem witness_MatchBitsPassThrough :
    exec (.encI 0xFFFFFFFF#32 0 0 0) (quiet false) = .next ((quiet false).deliver (.ok 0xFFFFFFFF#32)) := rfl

theorem witness_OrEqualsSumAndXor : (Instr.addi 5 0 4).matchIn (quiet false).config.table &&& fieldMask (Instr.addi 5 0 4).format = 0#32 ∧
    exec (.addi 5 0 4) (quiet false) = .next ((quiet false).deliver (.ok 0x00400293#32)) := ⟨rfl, rfl⟩

theorem witness_FieldBitsIndependentOfMatch : isFormatRequest (.encI 0x13#32 5 0 4) = true ∧ (Instr.encI 0x13#32 5 0 4).matchFree = true ∧
    0x7013#32 &&& fieldMask .I = 0#32 ∧ exec (.encI 0x13#32 5 0 4) (quiet false) = .next ((quiet false).deliver (.ok 0x00400293#32)) ∧
    exec (withMatch 0x7013#32 (.encI 0x13#32 5 0 4)) (quiet false) = .next ((quiet false).deliver (.ok 0x00407293#32)) :=
  ⟨rfl, rfl, rfl, rfl, rfl⟩

/-- One word of each format, at a boundary, under a match that leaves its fields free. -/
theorem witness_RoundTripRecoversOperands : (quiet false).config.imm12AcceptsUnsignedAlias = false ∧
    exec (.encJ 0x6F#32 31 (-1048576)) (quiet false) = .next ((quiet false).deliver (.ok 0x80000FEF#32)) ∧
    exec (.encR 0x33#32 31 31 31) (quiet false) = .next ((quiet false).deliver (.ok 0x01FF8FB3#32)) ∧
    exec (.encS 0x23#32 0 0 (-2048)) (quiet false) = .next ((quiet false).deliver (.ok 0x80000023#32)) ∧
    exec (.encI 0x13#32 31 31 2047) (quiet false) = .next ((quiet false).deliver (.ok 0x7FFF8F93#32)) ∧
    exec (.encIshift 0x1013#32 1 1 63) (quiet false) = .next ((quiet false).deliver (.ok 0x03F09093#32)) ∧
    exec (.encU 0x37#32 31 0xFFFFF) (quiet false) = .next ((quiet false).deliver (.ok 0xFFFFFFB7#32)) ∧
    exec (.encB 0x63#32 1 2 4094) (quiet false) = .next ((quiet false).deliver (.ok 0x7E208FE3#32)) ∧
    exec (.encCSR 0x3073#32 1 2 4095) (quiet false) = .next ((quiet false).deliver (.ok 0xFFF130F3#32)) ∧
    exec (.encCSRI 0x7073#32 31 31 4095) (quiet false) = .next ((quiet false).deliver (.ok 0xFFFFFFF3#32)) :=
  ⟨rfl, rfl, rfl, rfl, rfl, rfl, rfl, rfl, rfl, rfl⟩

/-- The matches of `witness_RoundTripRecoversOperands` leave their fields free. -/
theorem witness_RoundTripMatches : 0x6F#32 &&& fieldMask .J = 0#32 ∧ 0x33#32 &&& fieldMask .R = 0#32 ∧ 0x23#32 &&& fieldMask .S = 0#32 ∧
    0x13#32 &&& fieldMask .I = 0#32 ∧ 0x1013#32 &&& fieldMask .Ishift = 0#32 ∧ 0x37#32 &&& fieldMask .U = 0#32 ∧
    0x63#32 &&& fieldMask .B = 0#32 ∧ 0x3073#32 &&& fieldMask .CSR = 0#32 ∧ 0x7073#32 &&& fieldMask .CSRI = 0#32 := by decide

theorem witness_AcceptedBandRoundTripsAsPattern : (quiet true).config.imm12AcceptsUnsignedAlias = true ∧ 0x13#32 &&& fieldMask .I = 0#32 ∧
    exec (.encI 0x13#32 0 0 2048) (quiet true) = .next ((quiet true).deliver (.ok 0x80000013#32)) ∧ 0x3027#32 &&& fieldMask .S = 0#32 ∧
    exec (.encS 0x3027#32 0 0 4095) (quiet true) = .next ((quiet true).deliver (.ok 0xFE003FA7#32)) := ⟨rfl, rfl, rfl, rfl, rfl⟩

theorem witness_DifferentOperandsGiveDifferentWords : (Instr.jal 0 8).format = (Instr.encJ 0x6F#32 0 8).format ∧
    (Instr.jal 0 8).matchIn (quiet false).config.table = (Instr.encJ 0x6F#32 0 8).matchIn (quiet false).config.table ∧
    (Instr.jal 0 8).matchIn (quiet false).config.table &&& fieldMask (Instr.jal 0 8).format = 0#32 ∧
    (quiet false).config.imm12AcceptsUnsignedAlias = false ∧ exec (.jal 0 8) (quiet false) = .next ((quiet false).deliver (.ok 0x0080006F#32)) ∧
    exec (.encJ 0x6F#32 0 8) (quiet false) = .next ((quiet false).deliver (.ok 0x0080006F#32)) := ⟨rfl, rfl, rfl, rfl, rfl, rfl⟩

/-- TD4: two B requests that differ in the immediate only. -/
theorem witness_OperandChangesOnlyItsOwnBits : (Instr.encB 0x63#32 0 0 2).format = (Instr.encB 0x63#32 0 0 2048).format ∧
    (0x63#32 &&& fieldMask .B = 0#32) ∧
    (∀ g : Field, g ≠ .imm → operandOf g (.encB 0x63#32 0 0 2) = operandOf g (.encB 0x63#32 0 0 2048)) ∧
    exec (.encB 0x63#32 0 0 2) (quiet false) = .next ((quiet false).deliver (.ok 0x00000163#32)) ∧
    exec (.encB 0x63#32 0 0 2048) (quiet false) = .next ((quiet false).deliver (.ok 0x000000E3#32)) :=
  ⟨rfl, rfl, fun g h => by cases g <;> first | rfl | exact absurd rfl h, rfl, rfl⟩

end Sys2Proof.Tests
end

section
/-! SUPPORT. The machine meets the function `expected` of Safety.lean: each format encoder answers the result read off the domains and
layouts (41_formats.md R95 to R103), hence each request delivers `expected` of its configuration (10_state.md R20). -/

namespace Sys2Proof.Machine

/-- A check and the result it stands for fail together; once the check has passed, what follows decides. -/
theorem resultOf_check {cond : Prop} [Decidable cond] {f : InvalidOperand} {answer : Checked Word} {r : Result}
    (passed : ¬cond → resultOf answer = some r) :
    resultOf (if cond then .error (.invalidOperand f) else answer) = some (if cond then .invalidOperand f else r) := by
  split
  · rfl
  · exact passed ‹_›

theorem resultOf_assembleJ (m : Word) (rd imm : Int) : resultOf (assembleJ m rd imm) = some (expectedJ m rd imm) := by
  rw [assembleJ_eq]
  refine resultOf_check fun hrd => resultOf_check fun _ => resultOf_check fun _ => ?_
  rw [scatterJ_eq_layout (eq_true_of_ne_false hrd)]
  rfl

theorem resultOf_assembleR (m : Word) (rd rs1 rs2 : Int) :
    resultOf (assembleR m rd rs1 rs2) = some (expectedR m rd rs1 rs2) := by
  rw [assembleR_eq]
  refine resultOf_check fun hrd => resultOf_check fun hrs1 => resultOf_check fun hrs2 => ?_
  rw [scatterR_eq_layout (eq_true_of_ne_false hrd) (eq_true_of_ne_false hrs1) (eq_true_of_ne_false hrs2)]
  rfl

theorem resultOf_assembleS (accepts : Bool) (m : Word) (rs1 rs2 imm : Int) :
    resultOf (assembleS accepts m rs1 rs2 imm) = some (expectedS accepts m rs1 rs2 imm) := by
  rw [assembleS_eq]
  refine resultOf_check fun hrs1 => resultOf_check fun hrs2 => resultOf_check fun _ => ?_
  rw [scatterS_eq_layout (eq_true_of_ne_false hrs1) (eq_true_of_ne_false hrs2)]
  rfl

theorem resultOf_assembleI (accepts : Bool) (m : Word) (rd rs1 imm : Int) :
    resultOf (assembleI accepts m rd rs1 imm) = some (expectedI accepts m rd rs1 imm) := by
  rw [assembleI_eq]
  refine resultOf_check fun hrd => resultOf_check fun hrs1 => resultOf_check fun _ => ?_
  rw [scatterI_eq_layout (eq_true_of_ne_false hrd) (eq_true_of_ne_false hrs1)]
  rfl

theorem resultOf_assembleIshift (accepts : Bool) (m : Word) (rd rs1 shamt : Int) :
    resultOf (assembleIshift accepts m rd rs1 shamt) = some (expectedIshift accepts m rd rs1 shamt) := by
  rw [assembleIshift_eq]
  refine resultOf_check fun hrd => resultOf_check fun hrs1 => resultOf_check fun _ => resultOf_check fun hshamt => ?_
  rw [scatterIshift_eq_layout (eq_true_of_ne_false hrd) (eq_true_of_ne_false hrs1) (eq_true_of_ne_false hshamt)]
  rfl

theorem resultOf_assembleU (m : Word) (rd imm : Int) : resultOf (assembleU m rd imm) = some (expectedU m rd imm) := by
  rw [assembleU_eq]
  refine resultOf_check fun hrd => resultOf_check fun _ => ?_
  rw [scatterU_eq_layout (eq_true_of_ne_false hrd)]
  rfl

theorem resultOf_assembleB (m : Word) (rs1 rs2 imm : Int) :
    resultOf (assembleB m rs1 rs2 imm) = some (expectedB m rs1 rs2 imm) := by
  rw [assembleB_eq]
  refine resultOf_check fun hrs1 => resultOf_check fun hrs2 => resultOf_check fun _ => resultOf_check fun _ => ?_
  rw [scatterB_eq_layout (eq_true_of_ne_false hrs1) (eq_true_of_ne_false hrs2)]
  rfl

theorem resultOf_assembleCSR (m : Word) (rd rs1 csr : Int) :
    resultOf (assembleCSR m rd rs1 csr) = some (expectedCSR m rd rs1 csr) := by
  rw [assembleCSR_eq]
  refine resultOf_check fun hrd => resultOf_check fun hrs1 => resultOf_check fun hcsr => ?_
  rw [scatterCSR_eq_layout (eq_true_of_ne_false hrd) (eq_true_of_ne_false hrs1) (eq_true_of_ne_false hcsr)]
  rfl

theorem resultOf_assembleCSRI (m : Word) (rd imm csr : Int) :
    resultOf (assembleCSRI m rd imm csr) = some (expectedCSRI m rd imm csr) := by
  rw [assembleCSRI_eq]
  refine resultOf_check fun hrd => resultOf_check fun _ => resultOf_check fun hcsr => ?_
  rw [scatterCSRI_eq_layout (eq_true_of_ne_false hrd) (eq_true_of_ne_false hcsr)]
  rfl

/-- No encoder ends in the contract failure (R85): each request's encoder answers the expected result. -/
theorem resultOf_encoderOf (c : Config) (i : Instr) : resultOf (encoderOf i c) = some (expected c i) := by
  cases i with
  | ld | lw | lh | lb | flw | fld | addi | andi | ori | xori | encI => exact resultOf_assembleI ..
  | sd | sw | sh | sb | fsw | fsd | encS => exact resultOf_assembleS ..
  | slli | srli | encIshift => exact resultOf_assembleIshift ..
  | lui | encU => exact resultOf_assembleU ..
  | jal | encJ => exact resultOf_assembleJ ..
  | csrrw | csrrs | csrrc | encCSR => exact resultOf_assembleCSR ..
  | csrrwi | csrrsi | csrrci | encCSRI => exact resultOf_assembleCSRI ..
  | encR => exact resultOf_assembleR ..
  | encB => exact resultOf_assembleB ..
  | ebreak | cEbreak | dret | fenceI => rfl

/-- An answer with a result is concluded by delivering that result. -/
theorem State.conclude_of_resultOf (s : State) {answer : Checked Word} {r : Result} (h : resultOf answer = some r) :
    s.conclude answer = .next (s.deliver r) := by
  rcases s.conclude_cases answer with ⟨r', hr', hc⟩ | ⟨rfl, -⟩
  · rw [hc, Option.some.inj (hr'.symm.trans h)]
  · cases h

/-- Under a well-formed configuration every request delivers its expected result and changes nothing else. -/
theorem exec_eq_deliver_expected (i : Instr) {s : State} (h : s.config.wellFormed = true) :
    exec i s = .next (s.deliver (expected s.config i)) := by
  rw [exec_of_wellFormed i h, State.conclude_of_resultOf s (resultOf_encoderOf s.config i)]

/-- The converse of `exec_eq_deliver_expected`: a request that answers a next state has delivered its expected result. -/
theorem exec_next_expected {i : Instr} {s t : State} (h : exec i s = .next t) :
    s.config.wellFormed = true ∧ t = s.deliver (expected s.config i) := by
  obtain ⟨hw, -⟩ := exec_next h
  rw [exec_eq_deliver_expected i hw] at h
  exact ⟨hw, (Host.Outcome.next.inj h).symm⟩

end Sys2Proof.Machine
end

section
/-! SUPPORT. `step` case by case, and a run of the core step by step. -/

namespace Sys2Proof.Machine

theorem step_of_requests_nil {s : State} (h : s.requests = []) : step s = .next s := by
  rw [step, h]

theorem step_of_requests_cons {s : State} {i : Instr} {rest : List Instr} (h : s.requests = i :: rest) :
    step s = exec i { s with requests := rest } := by
  rw [step, h]

/-- Everything a step that answers a next state has done: nothing, or the oldest request's expected result is delivered. -/
theorem step_next {s t : State} (h : step s = .next t) :
    (s.requests = [] ∧ t = s) ∨
      ∃ i rest, s.requests = i :: rest ∧ t = ({ s with requests := rest } : State).deliver (expected s.config i) := by
  cases hreq : s.requests with
  | nil =>
    rw [step_of_requests_nil hreq] at h
    exact .inl ⟨rfl, (Host.Outcome.next.inj h).symm⟩
  | cons i rest =>
    rw [step_of_requests_cons hreq] at h
    exact .inr ⟨i, rest, rfl, (exec_next_expected h).2⟩

/-- A run whose first step answers a next state goes on from there. -/
theorem run_succ_of_step (M : Host.Core) {s t : M.State} (k : Nat) (h : M.step s = .next t) :
    M.run (k + 1) s = M.run k t := by
  rw [Host.Core.run, h]

end Sys2Proof.Machine
end

section
/-! SUPPORT. Every failure among the expected results has a cause of 60_exceptions.md R148. -/

namespace Sys2Proof.Machine

/-- A result that is no failure, or a failure whose condition in R148 holds; `accepts` is the flag of R11. -/
def HasListedCause (accepts : Bool) (r : Result) : Prop :=
  ∀ f, r = .invalidOperand f → causeHolds accepts f = true

theorem hasListedCause_ok {accepts : Bool} {w : Word} : HasListedCause accepts (.ok w) := by
  intro f h
  cases h

theorem hasListedCause_invalidOperand {accepts : Bool} {f : InvalidOperand} (h : causeHolds accepts f = true) :
    HasListedCause accepts (.invalidOperand f) := by
  intro f' hf
  cases hf
  exact h

/-- A check whose condition is the cause of its record may stand before any result with a listed cause. -/
theorem hasListedCause_check {accepts : Bool} {cond : Prop} [Decidable cond] {f : InvalidOperand} {r : Result}
    (failed : cond → causeHolds accepts f = true) (passed : ¬cond → HasListedCause accepts r) :
    HasListedCause accepts (if cond then .invalidOperand f else r) := by
  split
  · exact hasListedCause_invalidOperand (failed ‹_›)
  · exact passed ‹_›

section
variable {accepts : Bool} {v : Int}

theorem causeHolds_rd (h : regLegal v = false) : causeHolds accepts ⟨.rd, v, 5, .range⟩ = true := by
  simp [causeHolds, h]

theorem causeHolds_rs1 (h : regLegal v = false) : causeHolds accepts ⟨.rs1, v, 5, .range⟩ = true := by
  simp [causeHolds, h]

theorem causeHolds_rs2 (h : regLegal v = false) : causeHolds accepts ⟨.rs2, v, 5, .range⟩ = true := by
  simp [causeHolds, h]

theorem causeHolds_imm12 (h : imm12Legal accepts v = false) : causeHolds accepts ⟨.imm, v, 12, .range⟩ = true := by
  simp [causeHolds, h]

/-- The shift check runs after the 12-bit check has passed (R99). -/
theorem causeHolds_shamt (h12 : ¬imm12Legal accepts v = false) (h : shamtLegal v = false) :
    causeHolds accepts ⟨.shamt, v, 6, .range⟩ = true := by
  simp [causeHolds, eq_true_of_ne_false h12, h]

theorem causeHolds_immU (h : immULegal v = false) : causeHolds accepts ⟨.imm, v, 20, .range⟩ = true := by
  simp [causeHolds, h]

theorem causeHolds_csr (h : csrLegal v = false) : causeHolds accepts ⟨.csr, v, 12, .range⟩ = true := by
  simp [causeHolds, h]

theorem causeHolds_uimm5 (h : uimm5Legal v = false) : causeHolds accepts ⟨.imm, v, 5, .range⟩ = true := by
  simp [causeHolds, h]

theorem causeHolds_oddB (h : v % 2 ≠ 0) : causeHolds accepts ⟨.imm, v, 13, .alignment⟩ = true := by
  simpa [causeHolds] using h

theorem causeHolds_oddJ (h : v % 2 ≠ 0) : causeHolds accepts ⟨.imm, v, 21, .alignment⟩ = true := by
  simpa [causeHolds] using h

/-- R148 bounds an even B offset by 4095, R34 by 4094: the same on even offsets. -/
theorem causeHolds_immB (even : ¬v % 2 ≠ 0) (h : immBLegal v = false) :
    causeHolds accepts ⟨.imm, v, 13, .range⟩ = true := by
  simp only [immBLegal, Bool.and_eq_false_iff, decide_eq_false_iff_not] at h
  simp only [causeHolds, Bool.and_eq_true, Bool.not_eq_true', Bool.and_eq_false_iff, decide_eq_true_eq, decide_eq_false_iff_not]
  omega

/-- R148 bounds an even J offset by 1048575, R34 by 1048574: the same on even offsets. -/
theorem causeHolds_immJ (even : ¬v % 2 ≠ 0) (h : immJLegal v = false) :
    causeHolds accepts ⟨.imm, v, 21, .range⟩ = true := by
  simp only [immJLegal, Bool.and_eq_false_iff, decide_eq_false_iff_not] at h
  simp only [causeHolds, Bool.and_eq_true, Bool.not_eq_true', Bool.and_eq_false_iff, decide_eq_true_eq, decide_eq_false_iff_not]
  omega

end

theorem expectedJ_hasListedCause {accepts : Bool} {m : Word} {rd imm : Int} :
    HasListedCause accepts (expectedJ m rd imm) :=
  hasListedCause_check causeHolds_rd fun _ => hasListedCause_check causeHolds_oddJ fun even =>
    hasListedCause_check (causeHolds_immJ even) fun _ => hasListedCause_ok

theorem expectedR_hasListedCause {accepts : Bool} {m : Word} {rd rs1 rs2 : Int} :
    HasListedCause accepts (expectedR m rd rs1 rs2) :=
  hasListedCause_check causeHolds_rd fun _ => hasListedCause_check causeHolds_rs1 fun _ =>
    hasListedCause_check causeHolds_rs2 fun _ => hasListedCause_ok

theorem expectedS_hasListedCause {accepts : Bool} {m : Word} {rs1 rs2 imm : Int} :
    HasListedCause accepts (expectedS accepts m rs1 rs2 imm) :=
  hasListedCause_check causeHolds_rs1 fun _ => hasListedCause_check causeHolds_rs2 fun _ =>
    hasListedCause_check causeHolds_imm12 fun _ => hasListedCause_ok

theorem expectedI_hasListedCause {accepts : Bool} {m : Word} {rd rs1 imm : Int} :
    HasListedCause accepts (expectedI accepts m rd rs1 imm) :=
  hasListedCause_check causeHolds_rd fun _ => hasListedCause_check causeHolds_rs1 fun _ =>
    hasListedCause_check causeHolds_imm12 fun _ => hasListedCause_ok

theorem expectedIshift_hasListedCause {accepts : Bool} {m : Word} {rd rs1 shamt : Int} :
    HasListedCause accepts (expectedIshift accepts m rd rs1 shamt) :=
  hasListedCause_check causeHolds_rd fun _ => hasListedCause_check causeHolds_rs1 fun _ =>
    hasListedCause_check causeHolds_imm12 fun h12 => hasListedCause_check (causeHolds_shamt h12) fun _ =>
      hasListedCause_ok

theorem expectedU_hasListedCause {accepts : Bool} {m : Word} {rd imm : Int} :
    HasListedCause accepts (expectedU m rd imm) :=
  hasListedCause_check causeHolds_rd fun _ => hasListedCause_check causeHolds_immU fun _ => hasListedCause_ok

theorem expectedB_hasListedCause {accepts : Bool} {m : Word} {rs1 rs2 imm : Int} :
    HasListedCause accepts (expectedB m rs1 rs2 imm) :=
  hasListedCause_check causeHolds_rs1 fun _ => hasListedCause_check causeHolds_rs2 fun _ =>
    hasListedCause_check causeHolds_oddB fun even => hasListedCause_check (causeHolds_immB even) fun _ =>
      hasListedCause_ok

theorem expectedCSR_hasListedCause {accepts : Bool} {m : Word} {rd rs1 csr : Int} :
    HasListedCause accepts (expectedCSR m rd rs1 csr) :=
  hasListedCause_check causeHolds_rd fun _ => hasListedCause_check causeHolds_rs1 fun _ =>
    hasListedCause_check causeHolds_csr fun _ => hasListedCause_ok

theorem expectedCSRI_hasListedCause {accepts : Bool} {m : Word} {rd imm csr : Int} :
    HasListedCause accepts (expectedCSRI m rd imm csr) :=
  hasListedCause_check causeHolds_rd fun _ => hasListedCause_check causeHolds_uimm5 fun _ =>
    hasListedCause_check causeHolds_csr fun _ => hasListedCause_ok

/-- Every failure among the expected results has a listed cause (R148). -/
theorem expected_hasListedCause (c : Config) (i : Instr) :
    HasListedCause c.imm12AcceptsUnsignedAlias (expected c i) := by
  cases i with
  | ld | lw | lh | lb | flw | fld | addi | andi | ori | xori | encI => exact expectedI_hasListedCause
  | sd | sw | sh | sb | fsw | fsd | encS => exact expectedS_hasListedCause
  | slli | srli | encIshift => exact expectedIshift_hasListedCause
  | lui | encU => exact expectedU_hasListedCause
  | jal | encJ => exact expectedJ_hasListedCause
  | csrrw | csrrs | csrrc | encCSR => exact expectedCSR_hasListedCause
  | csrrwi | csrrsi | csrrci | encCSRI => exact expectedCSRI_hasListedCause
  | encR => exact expectedR_hasListedCause
  | encB => exact expectedB_hasListedCause
  | ebreak | cEbreak | dret | fenceI => exact hasListedCause_ok

/-- A result with a listed cause may be delivered to a state that meets the invariant. -/
theorem Inv.deliver {s : State} {r : Result} (h : Inv s) (hr : HasListedCause s.config.imm12AcceptsUnsignedAlias r) :
    Inv (s.deliver r) := by
  obtain ⟨hw, hcause⟩ := h
  refine ⟨hw, fun f hf => ?_⟩
  rw [State.deliver_results, List.mem_append, List.mem_singleton] at hf
  rcases hf with hold | hnew
  · exact hcause f hold
  · exact hr f hnew.symm

/-- The invariant says nothing of the waiting requests. -/
theorem Inv.setRequests {s : State} (h : Inv s) (rs : List Instr) : Inv { s with requests := rs } := h

end Sys2Proof.Machine
end

section
/-! SUPPORT. Legal operands (10_state.md R34) pass every check, so the expected result is the word of layout and match. -/

namespace Sys2Proof.Machine

section
variable {accepts : Bool} {m : Word} {rd rs1 rs2 v csr : Int}

theorem even_of_immJLegal (h : immJLegal v = true) : v % 2 = 0 := by
  simp only [immJLegal, Bool.and_eq_true, decide_eq_true_eq] at h
  obtain ⟨⟨even, -⟩, -⟩ := h
  exact even

theorem even_of_immBLegal (h : immBLegal v = true) : v % 2 = 0 := by
  simp only [immBLegal, Bool.and_eq_true, decide_eq_true_eq] at h
  obtain ⟨⟨even, -⟩, -⟩ := h
  exact even

/-- A legal shift amount passes the 12-bit check that runs first (R99). -/
theorem imm12Legal_of_shamtLegal (h : shamtLegal v = true) : imm12Legal accepts v = true := by
  simp only [shamtLegal, Bool.and_eq_true, decide_eq_true_eq] at h
  simp only [imm12Legal, Bool.and_eq_true, Bool.or_eq_true, decide_eq_true_eq]
  omega

theorem expectedJ_of_legal (h : (regLegal rd && immJLegal v) = true) : expectedJ m rd v = .ok (layoutJ rd v ||| m) := by
  rw [Bool.and_eq_true] at h
  obtain ⟨hrd, hv⟩ := h
  simp [expectedJ, hrd, hv, even_of_immJLegal hv]

theorem expectedR_of_legal (h : (regLegal rd && regLegal rs1 && regLegal rs2) = true) :
    expectedR m rd rs1 rs2 = .ok (layoutR rd rs1 rs2 ||| m) := by
  simp only [Bool.and_eq_true] at h
  simp [expectedR, h]

theorem expectedS_of_legal (h : (regLegal rs1 && regLegal rs2 && imm12Legal accepts v) = true) :
    expectedS accepts m rs1 rs2 v = .ok (layoutS rs1 rs2 v ||| m) := by
  simp only [Bool.and_eq_true] at h
  simp [expectedS, h]

theorem expectedI_of_legal (h : (regLegal rd && regLegal rs1 && imm12Legal accepts v) = true) :
    expectedI accepts m rd rs1 v = .ok (layoutI rd rs1 v ||| m) := by
  simp only [Bool.and_eq_true] at h
  simp [expectedI, h]

theorem expectedIshift_of_legal (h : (regLegal rd && regLegal rs1 && shamtLegal v) = true) :
    expectedIshift accepts m rd rs1 v = .ok (layoutIshift rd rs1 v ||| m) := by
  simp only [Bool.and_eq_true] at h
  simp [expectedIshift, h, imm12Legal_of_shamtLegal]

theorem expectedU_of_legal (h : (regLegal rd && immULegal v) = true) : expectedU m rd v = .ok (layoutU rd v ||| m) := by
  rw [Bool.and_eq_true] at h
  simp [expectedU, h]

theorem expectedB_of_legal (h : (regLegal rs1 && regLegal rs2 && immBLegal v) = true) :
    expectedB m rs1 rs2 v = .ok (layoutB rs1 rs2 v ||| m) := by
  simp only [Bool.and_eq_true] at h
  obtain ⟨⟨hrs1, hrs2⟩, hv⟩ := h
  simp [expectedB, hrs1, hrs2, hv, even_of_immBLegal hv]

theorem expectedCSR_of_legal (h : (regLegal rd && regLegal rs1 && csrLegal csr) = true) :
    expectedCSR m rd rs1 csr = .ok (layoutCSR rd rs1 csr ||| m) := by
  simp only [Bool.and_eq_true] at h
  simp [expectedCSR, h]

theorem expectedCSRI_of_legal (h : (regLegal rd && uimm5Legal v && csrLegal csr) = true) :
    expectedCSRI m rd v csr = .ok (layoutCSRI rd v csr ||| m) := by
  simp only [Bool.and_eq_true] at h
  simp [expectedCSRI, h]

end

/-- A request with legal operands is expected to give its layout under its match (R65, R92). -/
theorem expected_of_legal {c : Config} {i : Instr} (h : i.legal c.imm12AcceptsUnsignedAlias = true) :
    expected c i = .ok (i.layoutBits ||| i.matchIn c.table) := by
  cases i with
  | ld | lw | lh | lb | flw | fld | addi | andi | ori | xori | encI => exact expectedI_of_legal h
  | sd | sw | sh | sb | fsw | fsd | encS => exact expectedS_of_legal h
  | slli | srli | encIshift => exact expectedIshift_of_legal h
  | lui | encU => exact expectedU_of_legal h
  | jal | encJ => exact expectedJ_of_legal h
  | csrrw | csrrs | csrrc | encCSR => exact expectedCSR_of_legal h
  | csrrwi | csrrsi | csrrci | encCSRI => exact expectedCSRI_of_legal h
  | encR => exact expectedR_of_legal h
  | encB => exact expectedB_of_legal h
  | ebreak | cEbreak | dret | fenceI => exact congrArg Result.ok BitVec.zero_or.symm

end Sys2Proof.Machine
end

section
/-! SUPPORT. The premise on a configuration (10_state.md R33), and a queue of requests run to its end. -/

namespace Sys2Proof.Machine

theorem wellFormed_iff (c : Config) :
    c.wellFormed = true ↔ ∀ m : Mnemonic, c.table.get m &&& fieldMask m.format = 0#32 := by
  simp only [Config.wellFormed, List.all_eq_true, beq_iff_eq, Mnemonic.mem_all, forall_const]

theorem wellFormed_standard : Config.standard.wellFormed = true := by decide

/-- A run over a queue of requests answers each as `expected` does, whatever was answered before. -/
theorem run_requests {rs : List Instr} {s : State} (hreq : s.requests = rs) (hw : s.config.wellFormed = true) :
    Host.Core.run Sys2Proof.core rs.length s =
      .next { s with requests := [], results := s.results ++ rs.map (expected s.config) } := by
  induction rs generalizing s with
  | nil =>
    have idle : s = { s with requests := [] } := by rw [← hreq]
    rw [List.map_nil, List.append_nil]
    exact congrArg Host.Outcome.next idle
  | cons i rest ih =>
    have first : step s = .next (({ s with requests := rest } : State).deliver (expected s.config i)) := by
      rw [step_of_requests_cons hreq]
      exact exec_eq_deliver_expected i hw
    calc Host.Core.run Sys2Proof.core (rest.length + 1) s
        = Host.Core.run Sys2Proof.core rest.length (({ s with requests := rest } : State).deliver (expected s.config i)) :=
          run_succ_of_step Sys2Proof.core _ first
      _ = .next { s with requests := [], results := s.results ++ [expected s.config i] ++ rest.map (expected s.config) } :=
          ih rfl hw
      _ = .next { s with requests := [], results := s.results ++ (i :: rest).map (expected s.config) } := by
          rw [List.append_assoc, List.map_cons, List.singleton_append]

end Sys2Proof.Machine
end

section
/-! SUPPORT. The obligations of the family 10_state.md. -/

namespace Sys2Proof.Machine

/-- Settles O3: a step leaves the state or delivers the expected result of the oldest request, which has a listed cause. -/
theorem stepKeepsInvariant : Obligations.StepKeepsInvariant := by
  intro s s' hinv hstep
  rcases step_next hstep with ⟨-, rfl⟩ | ⟨i, rest, -, rfl⟩
  · exact hinv
  · exact (hinv.setRequests rest).deliver (expected_hasListedCause s.config i)

/-- Settles O33: every request delivers its expected result, which on legal operands is the word of layout and match. -/
theorem legalRequestYieldsLayoutWithMatch : Obligations.LegalRequestYieldsLayoutWithMatch := by
  intro i s hw hlegal
  rw [exec_eq_deliver_expected i hw, expected_of_legal hlegal]

/-- Settles O40: the check runs over every mnemonic, and every request evaluates its encoder under it. -/
theorem illFormedConfigurationRefusedAsWhole : Obligations.IllFormedConfigurationRefusedAsWhole := by
  refine ⟨wellFormed_iff, fun i s hill => ?_⟩
  rw [exec_eq_evaluate, State.evaluate_of_illFormed hill]

/-- Settles O41: the common result is `expected` of the common configuration. -/
theorem resultIsFunctionOfRequestAlone : Obligations.ResultIsFunctionOfRequestAlone := by
  intro i s t hw hconfig
  refine ⟨expected s.config i, exec_eq_deliver_expected i hw, ?_⟩
  rw [hconfig] at hw ⊢
  exact exec_eq_deliver_expected i hw

/-- Settles O43: a next state is the old one with one result delivered. -/
theorem requestChangesOnlyResultPort : Obligations.RequestChangesOnlyResultPort := by
  intro i s t h
  obtain ⟨-, r, -, rfl⟩ := exec_next h
  exact ⟨s.deliver_config r, s.deliver_requests r, r, s.deliver_results r⟩

/-- Settles O44, by `run_requests`, the induction over the queue. -/
theorem queueIsAnsweredRequestByRequest : Obligations.QueueIsAnsweredRequestByRequest :=
  fun _ hw => run_requests rfl hw

/-- Settles O2: the default table meets R33, and no result has been returned. -/
theorem invariantHoldsAtReset : Obligations.InvariantHoldsAtReset := by
  refine ⟨wellFormed_standard, fun f hf => ?_⟩
  rw [State.reset_results] at hf
  cases hf

/-- Settles O4: the two cases of `step`. -/
theorem stepRunsOldestRequest : Obligations.StepRunsOldestRequest :=
  ⟨fun _ _ _ => step_of_requests_cons, fun _ => step_of_requests_nil⟩

end Sys2Proof.Machine
end

section
/-! SUPPORT. The obligation of the family 20_memory.md. -/

namespace Sys2Proof.Machine

/-- From an empty result port, a run over the queue leaves each request's expected result beside it. -/
theorem run_pairs_expected {s : State} (hw : s.config.wellFormed = true) (hempty : s.results = []) :
    ∃ s' : State, Host.Core.run Sys2Proof.core s.requests.length s = .next s' ∧
      s.requests.zip s'.results = s.requests.map fun i => (i, expected s.config i) := by
  refine ⟨_, run_requests rfl hw, ?_⟩
  calc s.requests.zip (s.results ++ s.requests.map (expected s.config))
      = (s.requests.map id).zip (s.requests.map (expected s.config)) := by
        rw [hempty, List.nil_append, List.map_id]
    _ = s.requests.map fun i => (i, expected s.config i) := List.zip_map'

/-- Settles O45: the pairs are a map over the queue of a function of the common configuration, and maps keep permutations. -/
theorem orderOfRequestsDoesNotMatter : Obligations.OrderOfRequestsDoesNotMatter := by
  intro s t hw hconfig hperm hs ht
  obtain ⟨s', hrunS, hpairsS⟩ := run_pairs_expected hw hs
  obtain ⟨t', hrunT, hpairsT⟩ := run_pairs_expected (hconfig ▸ hw) ht
  refine ⟨s', t', hrunS, hrunT, ?_⟩
  rw [hpairsS, hpairsT, hconfig]
  exact hperm.map _

end Sys2Proof.Machine
end

section
/-! SUPPORT. Reading a request back from the word of its layout under a match that leaves the fields free (30_encoding.md R67): for each
format, the extracted operands of the word are the request's legal operands (10_state.md R34), and the operands extracted from any word
are legal. -/

namespace Sys2Proof

section
variable {m w : Word} {rd rs1 rs2 v csr : Int}

theorem operands_layoutJ (hw : w = layoutJ rd v ||| m) (free : m &&& fieldMask .J = 0#32)
    (legal : (regLegal rd && immJLegal v) = true) :
    rdOf w = rd ∧ immJOf w = v := by
  rw [Bool.and_eq_true] at legal
  obtain ⟨hrd, hv⟩ := legal
  obtain ⟨frd, fv⟩ := fields_layoutJ free rd v (even_of_immJLegal hv) hw
  rw [rdOf, frd, immJOf, fv]
  exact ⟨toNat_of_regLegal hrd, toInt_of_immJLegal hv⟩

theorem operands_layoutR (hw : w = layoutR rd rs1 rs2 ||| m) (free : m &&& fieldMask .R = 0#32)
    (legal : (regLegal rd && regLegal rs1 && regLegal rs2) = true) :
    rdOf w = rd ∧ rs1Of w = rs1 ∧ rs2Of w = rs2 := by
  simp only [Bool.and_eq_true] at legal
  obtain ⟨⟨hrd, hrs1⟩, hrs2⟩ := legal
  obtain ⟨frd, frs1, frs2⟩ := fields_layoutR free rd rs1 rs2 hw
  rw [rdOf, frd, rs1Of, frs1, rs2Of, frs2]
  exact ⟨toNat_of_regLegal hrd, toNat_of_regLegal hrs1, toNat_of_regLegal hrs2⟩

theorem operands_layoutS (hw : w = layoutS rs1 rs2 v ||| m) (free : m &&& fieldMask .S = 0#32)
    (legal : (regLegal rs1 && regLegal rs2 && imm12Legal false v) = true) :
    rs1Of w = rs1 ∧ rs2Of w = rs2 ∧ immSOf w = v := by
  simp only [Bool.and_eq_true] at legal
  obtain ⟨⟨hrs1, hrs2⟩, hv⟩ := legal
  obtain ⟨frs1, frs2, fv⟩ := fields_layoutS free rs1 rs2 v hw
  rw [rs1Of, frs1, rs2Of, frs2, immSOf, fv]
  exact ⟨toNat_of_regLegal hrs1, toNat_of_regLegal hrs2, toInt_of_imm12Legal hv⟩

theorem operands_layoutI (hw : w = layoutI rd rs1 v ||| m) (free : m &&& fieldMask .I = 0#32)
    (legal : (regLegal rd && regLegal rs1 && imm12Legal false v) = true) :
    rdOf w = rd ∧ rs1Of w = rs1 ∧ immIOf w = v := by
  simp only [Bool.and_eq_true] at legal
  obtain ⟨⟨hrd, hrs1⟩, hv⟩ := legal
  obtain ⟨frd, frs1, fv⟩ := fields_layoutI free rd rs1 v hw
  rw [rdOf, frd, rs1Of, frs1, immIOf, fv]
  exact ⟨toNat_of_regLegal hrd, toNat_of_regLegal hrs1, toInt_of_imm12Legal hv⟩

theorem operands_layoutIshift (hw : w = layoutIshift rd rs1 v ||| m) (free : m &&& fieldMask .Ishift = 0#32)
    (legal : (regLegal rd && regLegal rs1 && shamtLegal v) = true) :
    rdOf w = rd ∧ rs1Of w = rs1 ∧ shamtOf w = v := by
  simp only [Bool.and_eq_true] at legal
  obtain ⟨⟨hrd, hrs1⟩, hv⟩ := legal
  obtain ⟨frd, frs1, fv⟩ := fields_layoutIshift free rd rs1 v hw
  rw [rdOf, frd, rs1Of, frs1, shamtOf, fv]
  exact ⟨toNat_of_regLegal hrd, toNat_of_regLegal hrs1, toNat_of_shamtLegal hv⟩

theorem operands_layoutU (hw : w = layoutU rd v ||| m) (free : m &&& fieldMask .U = 0#32)
    (legal : (regLegal rd && immULegal v) = true) :
    rdOf w = rd ∧ immUOf w = v := by
  rw [Bool.and_eq_true] at legal
  obtain ⟨hrd, hv⟩ := legal
  obtain ⟨frd, fv⟩ := fields_layoutU free rd v hw
  rw [rdOf, frd, immUOf, fv]
  exact ⟨toNat_of_regLegal hrd, toNat_of_immULegal hv⟩

theorem operands_layoutB (hw : w = layoutB rs1 rs2 v ||| m) (free : m &&& fieldMask .B = 0#32)
    (legal : (regLegal rs1 && regLegal rs2 && immBLegal v) = true) :
    rs1Of w = rs1 ∧ rs2Of w = rs2 ∧ immBOf w = v := by
  simp only [Bool.and_eq_true] at legal
  obtain ⟨⟨hrs1, hrs2⟩, hv⟩ := legal
  obtain ⟨frs1, frs2, fv⟩ := fields_layoutB free rs1 rs2 v (even_of_immBLegal hv) hw
  rw [rs1Of, frs1, rs2Of, frs2, immBOf, fv]
  exact ⟨toNat_of_regLegal hrs1, toNat_of_regLegal hrs2, toInt_of_immBLegal hv⟩

theorem operands_layoutCSR (hw : w = layoutCSR rd rs1 csr ||| m) (free : m &&& fieldMask .CSR = 0#32)
    (legal : (regLegal rd && regLegal rs1 && csrLegal csr) = true) :
    rdOf w = rd ∧ rs1Of w = rs1 ∧ csrOf w = csr := by
  simp only [Bool.and_eq_true] at legal
  obtain ⟨⟨hrd, hrs1⟩, hcsr⟩ := legal
  obtain ⟨frd, frs1, fcsr⟩ := fields_layoutCSR free rd rs1 csr hw
  rw [rdOf, frd, rs1Of, frs1, csrOf, fcsr]
  exact ⟨toNat_of_regLegal hrd, toNat_of_regLegal hrs1, toNat_of_csrLegal hcsr⟩

theorem operands_layoutCSRI (hw : w = layoutCSRI rd v csr ||| m) (free : m &&& fieldMask .CSRI = 0#32)
    (legal : (regLegal rd && uimm5Legal v && csrLegal csr) = true) :
    rdOf w = rd ∧ uimm5Of w = v ∧ csrOf w = csr := by
  simp only [Bool.and_eq_true] at legal
  obtain ⟨⟨hrd, hv⟩, hcsr⟩ := legal
  obtain ⟨frd, fv, fcsr⟩ := fields_layoutCSRI free rd v csr hw
  rw [rdOf, frd, uimm5Of, fv, csrOf, fcsr]
  exact ⟨toNat_of_regLegal hrd, toNat_of_uimm5Legal hv, toNat_of_csrLegal hcsr⟩

end

/-! ### Operands extracted from any word are legal -/

section
variable (w : Word)

@[simp] theorem regLegal_rdOf : regLegal (rdOf w) = true := regLegal_toNat _
@[simp] theorem regLegal_rs1Of : regLegal (rs1Of w) = true := regLegal_toNat _
@[simp] theorem regLegal_rs2Of : regLegal (rs2Of w) = true := regLegal_toNat _
@[simp] theorem imm12Legal_immIOf : imm12Legal false (immIOf w) = true := imm12Legal_toInt _
@[simp] theorem imm12Legal_immSOf : imm12Legal false (immSOf w) = true := imm12Legal_toInt _
@[simp] theorem shamtLegal_shamtOf : shamtLegal (shamtOf w) = true := shamtLegal_toNat _
@[simp] theorem immULegal_immUOf : immULegal (immUOf w) = true := immULegal_toNat _
@[simp] theorem immBLegal_immBOf : immBLegal (immBOf w) = true := immBLegal_toInt _
@[simp] theorem immJLegal_immJOf : immJLegal (immJOf w) = true := immJLegal_toInt _
@[simp] theorem csrLegal_csrOf : csrLegal (csrOf w) = true := csrLegal_toNat _
@[simp] theorem uimm5Legal_uimm5Of : uimm5Legal (uimm5Of w) = true := uimm5Legal_toNat _

end

end Sys2Proof
end

section
/-! SUPPORT. The rows of the decode-mask table (30_encoding.md R79, R80) do not overlap, so the decoder of named constructors answers
the one row a word meets; and a request's word, decoded under its selector, is the request. -/

namespace Sys2Proof

theorem matchesRow_iff {w : Word} {m : Mnemonic} : matchesRow w m = true ↔ w &&& decodeMask m = defaultTable.get m :=
  beq_iff_eq

/-- Two rows whose constants agree on the bits both masks fix are one row. -/
theorem row_eq_of_constants_agree : ∀ m ∈ Mnemonic.all, ∀ m' ∈ Mnemonic.all,
    defaultTable.get m &&& decodeMask m' = defaultTable.get m' &&& decodeMask m → m = m' := by
  decide

theorem matchesRow_unique {w : Word} {m m' : Mnemonic} (h : matchesRow w m = true) (h' : matchesRow w m' = true) :
    m = m' := by
  refine row_eq_of_constants_agree m (Mnemonic.mem_all m) m' (Mnemonic.mem_all m') ?_
  rw [← matchesRow_iff.mp h, ← matchesRow_iff.mp h', BitVec.and_assoc, BitVec.and_assoc,
    BitVec.and_comm (decodeMask m)]

/-- The decoder of named constructors answers the one row the word meets. -/
theorem decodeNamed_eq_ok_iff {w : Word} {i : Instr} :
    decodeNamed w = .ok i ↔ ∃ m, matchesRow w m = true ∧ i = namedRequest m w := by
  unfold decodeNamed
  cases hfind : Mnemonic.all.find? (matchesRow w) with
  | none =>
    have norow := List.find?_eq_none.mp hfind
    exact ⟨nofun, fun ⟨m, hm, _⟩ => absurd hm (norow m (Mnemonic.mem_all m))⟩
  | some row =>
    have hrow := List.find?_some hfind
    refine ⟨fun h => ⟨row, hrow, (Except.ok.inj h).symm⟩, fun ⟨m, hm, hi⟩ => ?_⟩
    rw [hi, matchesRow_unique hm hrow]

/-- What a well-formed request is made of (10_state.md R34, 41_formats.md R113). -/
theorem Instr.wellFormed_iff {i : Instr} : i.wellFormed = true ↔ i.legal false = true ∧ i.matchFree = true := by
  rw [Instr.wellFormed, Bool.and_eq_true]

/-- A well-formed named request is read back from its word under its own mnemonic. -/
theorem namedRequest_encodeWord {i : Instr} {m : Mnemonic} (hm : i.mnemonic = some m) (h : i.wellFormed = true) :
    namedRequest m (encodeWord i) = i := by
  obtain ⟨legal, hfree⟩ := Instr.wellFormed_iff.mp h
  have free := matchIn_free hfree
  -- The word becomes a variable, so that what is extracted from it can stand for the request's operands.
  obtain ⟨w, hw⟩ : ∃ w, w = encodeWord i := ⟨_, rfl⟩
  rw [← hw]
  cases i with
  | ld | lw | lh | lb | flw | fld | addi | andi | ori | xori =>
    cases hm
    obtain ⟨rfl, rfl, rfl⟩ := operands_layoutI hw free legal
    rfl
  | sd | sw | sh | sb | fsw | fsd =>
    cases hm
    obtain ⟨rfl, rfl, rfl⟩ := operands_layoutS hw free legal
    rfl
  | slli | srli =>
    cases hm
    obtain ⟨rfl, rfl, rfl⟩ := operands_layoutIshift hw free legal
    rfl
  | lui =>
    cases hm
    obtain ⟨rfl, rfl⟩ := operands_layoutU hw free legal
    rfl
  | jal =>
    cases hm
    obtain ⟨rfl, rfl⟩ := operands_layoutJ hw free legal
    rfl
  | csrrw | csrrs | csrrc =>
    cases hm
    obtain ⟨rfl, rfl, rfl⟩ := operands_layoutCSR hw free legal
    rfl
  | csrrwi | csrrsi | csrrci =>
    cases hm
    obtain ⟨rfl, rfl, rfl⟩ := operands_layoutCSRI hw free legal
    rfl
  | ebreak | cEbreak | dret | fenceI => cases hm; rfl
  | encJ | encR | encS | encI | encIshift | encU | encB | encCSR | encCSRI => cases hm

/-- A well-formed named request is what the decoder of named constructors answers on its word. -/
theorem decodeNamed_encodeWord {i : Instr} (hm : i.mnemonic ≠ none) (h : i.wellFormed = true) :
    decodeNamed (encodeWord i) = .ok i := by
  obtain ⟨m, hm⟩ := Option.ne_none_iff_exists'.mp hm
  exact decodeNamed_eq_ok_iff.mpr ⟨m, matchesRow_layoutBits i hm, (namedRequest_encodeWord hm h).symm⟩

/-- The word of a well-formed request, decoded under the request's selector, is the request (R67, R80, R113). -/
theorem decodeSelected_encodeWord {i : Instr} (h : i.wellFormed = true) :
    decodeSelected i.selector (encodeWord i) = .ok i := by
  obtain ⟨legal, hfree⟩ := Instr.wellFormed_iff.mp h
  have free := matchIn_free hfree
  have hmatch : encodeWord i &&& matchBits i.format = i.matchIn defaultTable := layoutBits_or_and_matchBits free
  obtain ⟨w, hw⟩ : ∃ w, w = encodeWord i := ⟨_, rfl⟩
  have named := fun hm : i.mnemonic ≠ none => decodeNamed_encodeWord hm h
  rw [← hw] at hmatch named ⊢
  cases i with
  | encJ =>
    obtain ⟨rfl, rfl⟩ := operands_layoutJ hw free legal
    exact congrArg (fun m => Except.ok (Instr.encJ m _ _)) hmatch
  | encR =>
    obtain ⟨rfl, rfl, rfl⟩ := operands_layoutR hw free legal
    exact congrArg (fun m => Except.ok (Instr.encR m _ _ _)) hmatch
  | encS =>
    obtain ⟨rfl, rfl, rfl⟩ := operands_layoutS hw free legal
    exact congrArg (fun m => Except.ok (Instr.encS m _ _ _)) hmatch
  | encI =>
    obtain ⟨rfl, rfl, rfl⟩ := operands_layoutI hw free legal
    exact congrArg (fun m => Except.ok (Instr.encI m _ _ _)) hmatch
  | encIshift =>
    obtain ⟨rfl, rfl, rfl⟩ := operands_layoutIshift hw free legal
    exact congrArg (fun m => Except.ok (Instr.encIshift m _ _ _)) hmatch
  | encU =>
    obtain ⟨rfl, rfl⟩ := operands_layoutU hw free legal
    exact congrArg (fun m => Except.ok (Instr.encU m _ _)) hmatch
  | encB =>
    obtain ⟨rfl, rfl, rfl⟩ := operands_layoutB hw free legal
    exact congrArg (fun m => Except.ok (Instr.encB m _ _ _)) hmatch
  | encCSR =>
    obtain ⟨rfl, rfl, rfl⟩ := operands_layoutCSR hw free legal
    exact congrArg (fun m => Except.ok (Instr.encCSR m _ _ _)) hmatch
  | encCSRI =>
    obtain ⟨rfl, rfl, rfl⟩ := operands_layoutCSRI hw free legal
    exact congrArg (fun m => Except.ok (Instr.encCSRI m _ _ _)) hmatch
  | _ => exact named nofun

end Sys2Proof
end

section
/-! SUPPORT. What a request read from bits has kept of them: it is well formed, and its selector, operand bits and match are those of
the image (30_encoding.md R66, R67). -/

namespace Sys2Proof

/-- The match bits of a word lie outside the fields. -/
theorem and_matchBits_and_fieldMask (w : Word) (F : Format) : w &&& matchBits F &&& fieldMask F = 0#32 := by
  rw [matchBits, BitVec.and_assoc, BitVec.and_comm (~~~ _), BitVec.and_not_self]
  exact BitVec.and_zero

/-- The converse of `matchIn_free`: only the match of a format-encoder request is the caller's. -/
theorem matchFree_of_matchIn {i : Instr} (h : i.matchIn defaultTable &&& fieldMask i.format = 0#32) :
    i.matchFree = true := by
  cases i with
  | encJ | encR | encS | encI | encIshift | encU | encB | encCSR | encCSRI => exact beq_iff_eq.mpr h
  | _ => rfl

/-- A named request has no match of the caller's. -/
theorem matchFree_of_mnemonic {i : Instr} (h : i.mnemonic ≠ none) : i.matchFree = true := by
  cases i with
  | encJ | encR | encS | encI | encIshift | encU | encB | encCSR | encCSRI => exact absurd rfl h
  | _ => rfl

/-- The request has been read from the word under the selector byte. A mask that leaves bits free (R80: `fence.i`, `c.ebreak`) lets
the word differ from the request's match constant there. -/
structure ReadFrom (i : Instr) (selector : Byte) (w : Word) : Prop where
  legal : i.legal false = true
  selector_eq : i.selector = selector
  layoutBits_eq : i.layoutBits = w &&& fieldMask i.format
  free : i.matchIn defaultTable &&& fieldMask i.format = 0#32
  matchIn_eq : i ≠ .fenceI → i ≠ .cEbreak → i.matchIn defaultTable = w &&& matchBits i.format

namespace ReadFrom

variable {i : Instr} {b : Byte} {w : Word}

/-- Where the match is all the match bits of the word, it leaves the fields free. -/
theorem of_matchBits (legal : i.legal false = true) (sel : i.selector = b) (lay : i.layoutBits = w &&& fieldMask i.format)
    (hmatch : i.matchIn defaultTable = w &&& matchBits i.format) : ReadFrom i b w :=
  ⟨legal, sel, lay, hmatch ▸ and_matchBits_and_fieldMask w i.format, fun _ _ => hmatch⟩

theorem wellFormed (h : ReadFrom i b w) : i.wellFormed = true :=
  Instr.wellFormed_iff.mpr ⟨h.legal, matchFree_of_matchIn h.free⟩

/-- A word is its field bits and its match bits. -/
theorem encodeWord_eq (h : ReadFrom i b w) (hf : i ≠ .fenceI) (hc : i ≠ .cEbreak) : encodeWord i = w := by
  rw [encodeWord, h.layoutBits_eq, h.matchIn_eq hf hc, BitVec.or_comm, and_matchBits_or_and_fieldMask]

end ReadFrom

/-- The mask of a row fixes all match bits of its format but for `fence.i` and `c.ebreak` (R80). -/
theorem decodeMask_eq_matchBits_of_ne {m : Mnemonic} (hf : m ≠ .fenceI) (hc : m ≠ .cEbreak) :
    decodeMask m = matchBits m.format := by
  cases m with
  | fenceI => exact absurd rfl hf
  | cEbreak => exact absurd rfl hc
  | ebreak | dret => decide
  | _ => exact decodeMask_eq_matchBits nofun

theorem legal_namedRequest (m : Mnemonic) (w : Word) : (namedRequest m w).legal false = true := by
  cases m <;> simp [namedRequest, Instr.legal]

theorem layoutBits_namedRequest (m : Mnemonic) (w : Word) : (namedRequest m w).layoutBits = w &&& fieldMask m.format := by
  cases m with
  | ld | lw | lh | lb | flw | fld | addi | andi | ori | xori => exact layoutI_of_fields w
  | sd | sw | sh | sb | fsw | fsd => exact layoutS_of_fields w
  | slli | srli => exact layoutIshift_of_fields w
  | lui => exact layoutU_of_fields w
  | jal => exact layoutJ_of_fields w
  | csrrw | csrrs | csrrc => exact layoutCSR_of_fields w
  | csrrwi | csrrsi | csrrci => exact layoutCSRI_of_fields w
  | ebreak | cEbreak | dret | fenceI => exact BitVec.and_zero.symm

theorem format_namedRequest (m : Mnemonic) (w : Word) : (namedRequest m w).format = m.format := by
  cases m <;> rfl

theorem selector_namedRequest (m : Mnemonic) (w : Word) : (namedRequest m w).selector = 0#8 := by
  cases m <;> rfl

theorem matchIn_namedRequest (t : MatchTable) (m : Mnemonic) (w : Word) :
    (namedRequest m w).matchIn t = t.get m := by
  cases m <;> rfl

theorem readFrom_namedRequest {m : Mnemonic} {w : Word} (h : matchesRow w m = true) :
    ReadFrom (namedRequest m w) 0#8 w where
  legal := legal_namedRequest m w
  selector_eq := selector_namedRequest m w
  layoutBits_eq := by rw [layoutBits_namedRequest, format_namedRequest]
  free := by rw [matchIn_namedRequest, format_namedRequest, defaultTable_free]
  matchIn_eq hf hc := by
    have hmask : decodeMask m = matchBits m.format :=
      decodeMask_eq_matchBits_of_ne (fun h => hf (h ▸ rfl)) (fun h => hc (h ▸ rfl))
    rw [matchIn_namedRequest, format_namedRequest, ← matchesRow_iff.mp h, hmask]

/-- Whatever decodes under a selector has been read from the word. -/
theorem readFrom_of_decodeSelected {b : Byte} {w : Word} {i : Instr} (h : decodeSelected b w = .ok i) :
    ReadFrom i b w := by
  unfold decodeSelected at h
  split at h
  case h_1 hb =>
    obtain ⟨m, hm, rfl⟩ := decodeNamed_eq_ok_iff.mp h
    rw [show b = 0#8 from BitVec.eq_of_toNat_eq hb]
    exact readFrom_namedRequest hm
  case h_11 => cases h
  all_goals
    rename_i hb
    cases h
    refine .of_matchBits (by simp [Instr.legal]) (BitVec.eq_of_toNat_eq hb.symm) ?_ rfl
  · exact layoutJ_of_fields w
  · exact layoutR_of_fields w
  · exact layoutS_of_fields w
  · exact layoutI_of_fields w
  · exact layoutIshift_of_fields w
  · exact layoutU_of_fields w
  · exact layoutB_of_fields w
  · exact layoutCSR_of_fields w
  · exact layoutCSRI_of_fields w

end Sys2Proof
end

section
/-! SUPPORT. The bytes of a request image (log entry 4: the word, least significant byte first, and the selector). -/

namespace Sys2Proof

/-- The four bytes of a word, put back together. -/
theorem append_bytes (w : Word) :
    w.extractLsb' 24 8 ++ w.extractLsb' 16 8 ++ w.extractLsb' 8 8 ++ w.extractLsb' 0 8 = w := by
  rw [BitVec.extractLsb'_append_extractLsb'_eq_extractLsb' (start₁ := 16) (len₁ := 8) rfl,
    BitVec.extractLsb'_append_extractLsb'_eq_extractLsb' (start₁ := 8) (len₁ := 8) rfl]
  exact BitVec.extractLsb'_append_extractLsb' (w := 24) (len := 8)

/-- A byte above the lowest one is found by leaving the lowest one out. -/
theorem extractLsb'_append_byte {n : Nat} (x : BitVec n) (b : Byte) (k : Nat) :
    (x ++ b).extractLsb' (k + 8) 8 = x.extractLsb' k 8 := by
  rw [BitVec.extractLsb'_append_eq_of_le (Nat.le_add_left 8 k), Nat.add_sub_cancel]

/-- The word put together from four bytes gives each byte back. -/
theorem bytes_of_append (b0 b1 b2 b3 : Byte) :
    (b3 ++ b2 ++ b1 ++ b0).extractLsb' 0 8 = b0 ∧ (b3 ++ b2 ++ b1 ++ b0).extractLsb' 8 8 = b1 ∧
      (b3 ++ b2 ++ b1 ++ b0).extractLsb' 16 8 = b2 ∧ (b3 ++ b2 ++ b1 ++ b0).extractLsb' 24 8 = b3 := by
  refine ⟨BitVec.extractLsb'_append_eq_right, ?_, ?_, ?_⟩
  · rw [extractLsb'_append_byte _ _ 0]
    exact BitVec.extractLsb'_append_eq_right
  · rw [extractLsb'_append_byte _ _ 8, extractLsb'_append_byte _ _ 0]
    exact BitVec.extractLsb'_append_eq_right
  · rw [extractLsb'_append_byte _ _ 16, extractLsb'_append_byte _ _ 8]
    exact BitVec.extractLsb'_append_eq_left

theorem decode_image (b0 b1 b2 b3 selector : Byte) (rest : List Byte) :
    decode (b0 :: b1 :: b2 :: b3 :: selector :: rest) =
      (decodeSelected selector (b3 ++ b2 ++ b1 ++ b0)).map (·, rest) := by
  rw [decode]
  cases decodeSelected selector (b3 ++ b2 ++ b1 ++ b0) <;> rfl

/-- Bytes that decode are an image and what is left over. -/
theorem decode_eq_ok {bytes rest : List Byte} {i : Instr} (h : decode bytes = .ok (i, rest)) :
    ∃ b0 b1 b2 b3 selector, bytes = b0 :: b1 :: b2 :: b3 :: selector :: rest ∧
      decodeSelected selector (b3 ++ b2 ++ b1 ++ b0) = .ok i := by
  match bytes with
  | b0 :: b1 :: b2 :: b3 :: selector :: rest' =>
    rw [decode_image] at h
    cases hsel : decodeSelected selector (b3 ++ b2 ++ b1 ++ b0) with
    | error e => rw [hsel] at h; cases h
    | ok j =>
      rw [hsel] at h
      cases h
      exact ⟨b0, b1, b2, b3, selector, rfl, hsel⟩
  | [] | [_] | [_, _] | [_, _, _] | [_, _, _, _] => cases h

/-- The image of a well-formed request decodes to the request and what is left over. -/
theorem decode_encode {i : Instr} (h : i.wellFormed = true) (rest : List Byte) : decode (encode i ++ rest) = .ok (i, rest) := by
  refine (decode_image _ _ _ _ i.selector rest).trans ?_
  rw [append_bytes, decodeSelected_encodeWord h]
  rfl

/-- A request read from an image is encoded as that image. -/
theorem ReadFrom.encode_eq {i : Instr} {b0 b1 b2 b3 selector : Byte} (h : ReadFrom i selector (b3 ++ b2 ++ b1 ++ b0))
    (hf : i ≠ .fenceI) (hc : i ≠ .cEbreak) : encode i = [b0, b1, b2, b3, selector] := by
  obtain ⟨h0, h1, h2, h3⟩ := bytes_of_append b0 b1 b2 b3
  rw [encode, h.encodeWord_eq hf hc, h.selector_eq, h0, h1, h2, h3]

end Sys2Proof
end

section
/-! SUPPORT. The converse of `expected_of_legal`: an expected result is a word only on legal operands (10_state.md R34). -/

namespace Sys2Proof.Machine

section
variable {accepts : Bool} {m w : Word} {rd rs1 rs2 v csr : Int}

/-- A word behind a check has passed it. -/
theorem check_eq_ok {cond : Prop} [Decidable cond] {f : InvalidOperand} {r : Result}
    (h : (if cond then .invalidOperand f else r) = .ok w) : ¬cond ∧ r = .ok w := by
  split at h
  · cases h
  · exact ⟨‹_›, h⟩

theorem legal_of_expectedJ (h : expectedJ m rd v = .ok w) : (regLegal rd && immJLegal v) = true := by
  obtain ⟨hrd, h⟩ := check_eq_ok h
  obtain ⟨-, h⟩ := check_eq_ok h
  obtain ⟨hv, -⟩ := check_eq_ok h
  simp [hrd, hv]

theorem legal_of_expectedR (h : expectedR m rd rs1 rs2 = .ok w) :
    (regLegal rd && regLegal rs1 && regLegal rs2) = true := by
  obtain ⟨hrd, h⟩ := check_eq_ok h
  obtain ⟨hrs1, h⟩ := check_eq_ok h
  obtain ⟨hrs2, -⟩ := check_eq_ok h
  simp [hrd, hrs1, hrs2]

theorem legal_of_expectedS (h : expectedS accepts m rs1 rs2 v = .ok w) :
    (regLegal rs1 && regLegal rs2 && imm12Legal accepts v) = true := by
  obtain ⟨hrs1, h⟩ := check_eq_ok h
  obtain ⟨hrs2, h⟩ := check_eq_ok h
  obtain ⟨hv, -⟩ := check_eq_ok h
  simp [hrs1, hrs2, hv]

theorem legal_of_expectedI (h : expectedI accepts m rd rs1 v = .ok w) :
    (regLegal rd && regLegal rs1 && imm12Legal accepts v) = true := by
  obtain ⟨hrd, h⟩ := check_eq_ok h
  obtain ⟨hrs1, h⟩ := check_eq_ok h
  obtain ⟨hv, -⟩ := check_eq_ok h
  simp [hrd, hrs1, hv]

theorem legal_of_expectedIshift (h : expectedIshift accepts m rd rs1 v = .ok w) :
    (regLegal rd && regLegal rs1 && shamtLegal v) = true := by
  obtain ⟨hrd, h⟩ := check_eq_ok h
  obtain ⟨hrs1, h⟩ := check_eq_ok h
  obtain ⟨-, h⟩ := check_eq_ok h
  obtain ⟨hv, -⟩ := check_eq_ok h
  simp [hrd, hrs1, hv]

theorem legal_of_expectedU (h : expectedU m rd v = .ok w) : (regLegal rd && immULegal v) = true := by
  obtain ⟨hrd, h⟩ := check_eq_ok h
  obtain ⟨hv, -⟩ := check_eq_ok h
  simp [hrd, hv]

theorem legal_of_expectedB (h : expectedB m rs1 rs2 v = .ok w) :
    (regLegal rs1 && regLegal rs2 && immBLegal v) = true := by
  obtain ⟨hrs1, h⟩ := check_eq_ok h
  obtain ⟨hrs2, h⟩ := check_eq_ok h
  obtain ⟨-, h⟩ := check_eq_ok h
  obtain ⟨hv, -⟩ := check_eq_ok h
  simp [hrs1, hrs2, hv]

theorem legal_of_expectedCSR (h : expectedCSR m rd rs1 csr = .ok w) :
    (regLegal rd && regLegal rs1 && csrLegal csr) = true := by
  obtain ⟨hrd, h⟩ := check_eq_ok h
  obtain ⟨hrs1, h⟩ := check_eq_ok h
  obtain ⟨hcsr, -⟩ := check_eq_ok h
  simp [hrd, hrs1, hcsr]

theorem legal_of_expectedCSRI (h : expectedCSRI m rd v csr = .ok w) :
    (regLegal rd && uimm5Legal v && csrLegal csr) = true := by
  obtain ⟨hrd, h⟩ := check_eq_ok h
  obtain ⟨hv, h⟩ := check_eq_ok h
  obtain ⟨hcsr, -⟩ := check_eq_ok h
  simp [hrd, hv, hcsr]

end

/-- A request whose expected result is a word has legal operands. -/
theorem legal_of_expected_ok {c : Config} {i : Instr} {w : Word} (h : expected c i = .ok w) :
    i.legal c.imm12AcceptsUnsignedAlias = true := by
  cases i with
  | ld | lw | lh | lb | flw | fld | addi | andi | ori | xori | encI => exact legal_of_expectedI h
  | sd | sw | sh | sb | fsw | fsd | encS => exact legal_of_expectedS h
  | slli | srli | encIshift => exact legal_of_expectedIshift h
  | lui | encU => exact legal_of_expectedU h
  | jal | encJ => exact legal_of_expectedJ h
  | csrrw | csrrs | csrrc | encCSR => exact legal_of_expectedCSR h
  | csrrwi | csrrsi | csrrci | encCSRI => exact legal_of_expectedCSRI h
  | encR => exact legal_of_expectedR h
  | encB => exact legal_of_expectedB h
  | ebreak | cEbreak | dret | fenceI => rfl

/-- A word that is an expected result is the layout of legal operands under the match. -/
theorem expected_eq_ok_iff {c : Config} {i : Instr} {w : Word} :
    expected c i = .ok w ↔
      i.legal c.imm12AcceptsUnsignedAlias = true ∧ w = i.layoutBits ||| i.matchIn c.table := by
  constructor
  · intro h
    have legal := legal_of_expected_ok h
    exact ⟨legal, Result.ok.inj (h.symm.trans (expected_of_legal legal))⟩
  · rintro ⟨legal, rfl⟩
    exact expected_of_legal legal

end Sys2Proof.Machine
end

section
/-! SUPPORT. The obligations of the family 30_encoding.md. -/

namespace Sys2Proof.Machine

/-- Settles O7: the bytes of the image are the request's word and selector, and the word decodes under the selector. -/
theorem decodeEncodeGivesRequestBack : Obligations.DecodeEncodeGivesRequestBack :=
  fun _ rest h => decode_encode h rest

/-- Settles O10: the word is the expected result, hence the word a well-formed request is encoded as. -/
theorem producedWordDecodesToItsRequest : Obligations.ProducedWordDecodesToItsRequest := by
  intro i s w hconfig named hexec
  obtain ⟨-, hdelivered⟩ := exec_next_expected hexec
  have hexpected := State.deliver_injective hdelivered
  rw [hconfig] at hexpected
  obtain ⟨legal, rfl⟩ := expected_eq_ok_iff.mp hexpected.symm
  exact decodeNamed_encodeWord named (Instr.wellFormed_iff.mpr ⟨legal, matchFree_of_mnemonic named⟩)

/-- Settles O8: what decodes has been read from the image. -/
theorem encodeDecodeGivesBytesBack : Obligations.EncodeDecodeGivesBytesBack := by
  intro bytes i h
  obtain ⟨b0, b1, b2, b3, selector, rfl, hsel⟩ := decode_eq_ok h
  have read := readFrom_of_decodeSelected hsel
  exact ⟨read.wellFormed, read.encode_eq⟩

/-- Settles O9: the constants of two rows differ in a bit that both masks fix. -/
theorem namedRowsDoNotOverlap : Obligations.NamedRowsDoNotOverlap :=
  fun _ _ _ => matchesRow_unique

/-- Settles O1: the table after reset is read off value by value, and it meets the premise of R33. -/
theorem defaultMatchTableValues : Obligations.DefaultMatchTableValues :=
  ⟨rfl, wellFormed_standard, rfl⟩

/-- The request a table word decodes to is placed in front of the request port. -/
theorem State.withFetchWord_of_decodes (s : State) {nbits w : Nat} {i : Instr} (h : decodeTableWord nbits w = some i) :
    s.withFetchWord nbits w = { s with requests := i :: s.requests } := by
  rw [State.withFetchWord, h]

/-- Settles O5: the step takes the placed request from the port and leaves the state as it was. -/
theorem placedWordRunsDecodedRequest : Obligations.PlacedWordRunsDecodedRequest := by
  intro s nbits w i h
  rw [s.withFetchWord_of_decodes h]
  exact step_of_requests_cons rfl

/-- Settles O6: the decoder is run on each word. -/
theorem sampleWordsDecode : Obligations.SampleWordsDecode := by
  unfold Obligations.SampleWordsDecode
  decide

/-- A named request and the format-encoder request it stands for evaluate the same encoder of the state's configuration. -/
theorem exec_eq_of_encoderOf_eq {i j : Instr} {s : State} (h : encoderOf i s.config = encoderOf j s.config) :
    exec i s = exec j s := by
  rw [exec_eq_evaluate, exec_eq_evaluate, State.evaluate, State.evaluate, h]

/-- Settles O31: the encoder of a named request is its format's encoder bound to the match constant. -/
theorem namedRequestIsFormatRequestWithMatch : Obligations.NamedRequestIsFormatRequestWithMatch := by
  intro s a b c t
  refine ⟨⟨?_, ?_, ?_, ?_, ?_, ?_⟩, ⟨?_, ?_, ?_, ?_, ?_, ?_⟩, ⟨?_, ?_, ?_, ?_, ?_, ?_⟩, ⟨?_, ?_⟩, ⟨?_, ?_, ?_⟩, ⟨?_, ?_, ?_⟩,
    fun hw => ⟨?_, ?_, ?_, ?_⟩⟩
  iterate 26 exact exec_eq_of_encoderOf_eq rfl
  iterate 4 exact exec_eq_deliver_expected _ hw

end Sys2Proof.Machine
end

section
/-! SUPPORT. The obligations of the family 40_primitives.md. -/

namespace Sys2Proof.Machine

/-- Settles O39: a well-formed configuration delivers the expected result, an ill-formed one refuses the request (R33). -/
theorem noRequestFaults : Obligations.NoRequestFaults := by
  intro i s f hfault
  cases hw : s.config.wellFormed with
  | true =>
    rw [exec_eq_deliver_expected i hw] at hfault
    cases hfault
  | false =>
    rw [exec_eq_evaluate, State.evaluate_of_illFormed hw] at hfault
    cases hfault

/-- The extracted field as a number, by shift and remainder (R81). -/
theorem toNat_extractedField (v : Word) {hi lo : Nat} (hhi : hi < 32) :
    ((v.extractLsb' lo (hi - lo + 1)).setWidth 32).toNat = v.toNat / 2 ^ lo % 2 ^ (hi - lo + 1) := by
  rw [BitVec.toNat_setWidth_of_le (by omega), BitVec.extractLsb'_toNat, Nat.shiftRight_eq_div_pow]

/-- The extracted field bit by bit: the bits `lo..hi` of the value, and 0 above. -/
theorem getLsbD_extractedField (v : Word) {hi lo : Nat} (hhi : hi < 32) (k : Nat) :
    ((v.extractLsb' lo (hi - lo + 1)).setWidth 32).getLsbD k = (decide (k ≤ hi - lo) && v.getLsbD (lo + k)) := by
  have field : (decide (k < 32) && decide (k < hi - lo + 1)) = decide (k ≤ hi - lo) := by
    rw [← Bool.decide_and, decide_eq_decide]
    omega
  rw [BitVec.getLsbD_setWidth, BitVec.getLsbD_extractLsb', ← Bool.and_assoc, field]

/-- Settles O11: within its precondition `bits` is the extracted field. -/
theorem bitsExtractsRightAligned : Obligations.BitsExtractsRightAligned := by
  intro value hi lo
  refine ⟨fun hlo hhi => ⟨_, bits_ok value hi lo hlo hhi, ?_, ?_⟩, bits_error value hi lo⟩
  · exact toNat_extractedField value hhi
  · exact getLsbD_extractedField value hhi

/-- Outside its precondition `bit` is the contract failure (R83). -/
theorem bit_error (value : Word) {b : Nat} (h : 32 ≤ b) : bit value b = .error .contractViolation :=
  bits_error value b b fun within => Nat.not_lt.mpr h within.2

/-- One extracted bit is 1 or 0 as that bit is set or clear. -/
theorem extractedBit_eq_ite (value : Word) (b : Nat) :
    (value.extractLsb' b 1).setWidth 32 = if value.getLsbD b then 1#32 else 0#32 := by
  have bitZero : value.extractLsb' b 1 = BitVec.ofBool (value.getLsbD b) := by
    ext k hk
    obtain rfl : k = 0 := by omega
    simp
  rw [bitZero]
  cases value.getLsbD b <;> rfl

/-- Settles O12: `bit` is one extracted bit, or the contract failure of `bits`. -/
theorem bitIsOneBitOfBits : Obligations.BitIsOneBitOfBits := by
  refine fun value b => ⟨rfl, fun hb => ?_, bit_error value⟩
  rw [bit_ok value b hb, extractedBit_eq_ite]

/-- Settles O13: both primitives fail outside the precondition, and the two stops are different constructors. -/
theorem primitiveContractFailure : Obligations.PrimitiveContractFailure := by
  refine ⟨fun value hi lo h => bits_error value hi lo ?_, fun value _ => bit_error value, fun f h => by cases h⟩
  omega

end Sys2Proof.Machine
end

section
/-! SUPPORT. What a request that delivers a word has done, in one statement; and what a format-encoder request takes from the match table
(41_formats.md R108 to R113). -/

namespace Sys2Proof.Machine

variable {i : Instr} {s : State} {w : Word}

/-- A request that delivers a word has legal operands, and the word is their layout under the request's match (R65, R92). -/
theorem word_of_exec (h : exec i s = .next (s.deliver (.ok w))) :
    i.legal s.config.imm12AcceptsUnsignedAlias = true ∧ w = i.layoutBits ||| i.matchIn s.config.table := by
  obtain ⟨-, hdelivered⟩ := exec_next_expected h
  exact expected_eq_ok_iff.mp (State.deliver_injective hdelivered).symm

/-- The match bits of a produced word are those of the match (R109). -/
theorem matchBits_of_exec (h : exec i s = .next (s.deliver (.ok w))) :
    w &&& matchBits i.format = i.matchIn s.config.table &&& matchBits i.format := by
  obtain ⟨-, rfl⟩ := word_of_exec h
  rw [BitVec.and_or_distrib_right, layoutBits_and_matchBits, BitVec.zero_or]

/-- Under a free match, the field bits of a produced word are the placed operands (R111). -/
theorem fieldBits_of_exec (free : i.matchIn s.config.table &&& fieldMask i.format = 0#32)
    (h : exec i s = .next (s.deliver (.ok w))) : w &&& fieldMask i.format = i.layoutBits := by
  obtain ⟨-, rfl⟩ := word_of_exec h
  exact layoutBits_or_and_fieldMask free

/-- The match of a format-encoder request is the caller's, whatever the table (R47). -/
theorem matchIn_eq_of_isFormatRequest (hi : isFormatRequest i = true) (t t' : MatchTable) : i.matchIn t = i.matchIn t' := by
  cases i with
  | encJ | encR | encS | encI | encIshift | encU | encB | encCSR | encCSRI => rfl
  | _ => exact Bool.noConfusion hi

theorem free_of_matchFree (hi : isFormatRequest i = true) (h : i.matchFree = true) (t : MatchTable) :
    i.matchIn t &&& fieldMask i.format = 0#32 := by
  rw [matchIn_eq_of_isFormatRequest hi t defaultTable, matchIn_free h]

/-- The expected result of a format-encoder request takes the flag from the configuration and nothing else (R112). -/
theorem expected_eq_of_isFormatRequest (hi : isFormatRequest i = true) {c d : Config}
    (hflag : c.imm12AcceptsUnsignedAlias = d.imm12AcceptsUnsignedAlias) : expected c i = expected d i := by
  cases i with
  | encS m rs1 rs2 imm => exact congrArg (expectedS · m rs1 rs2 imm) hflag
  | encI m rd rs1 imm => exact congrArg (expectedI · m rd rs1 imm) hflag
  | encIshift m rd rs1 shamt => exact congrArg (expectedIshift · m rd rs1 shamt) hflag
  | encJ | encR | encU | encB | encCSR | encCSRI => rfl
  | _ => exact Bool.noConfusion hi

/-! Another match changes neither the format nor the placed operands. -/

@[simp] theorem format_withMatch (m : Word) (i : Instr) : (withMatch m i).format = i.format := by cases i <;> rfl

@[simp] theorem layoutBits_withMatch (m : Word) (i : Instr) : (withMatch m i).layoutBits = i.layoutBits := by cases i <;> rfl

theorem matchIn_withMatch (hi : isFormatRequest i = true) (m : Word) (t : MatchTable) : (withMatch m i).matchIn t = m := by
  cases i with
  | encJ | encR | encS | encI | encIshift | encU | encB | encCSR | encCSRI => rfl
  | _ => exact Bool.noConfusion hi

/-- With the flag off, the word of a format-encoder request with a free match decodes to the request under its selector (R113). -/
theorem decodeSelected_of_exec (hi : isFormatRequest i = true) (off : s.config.imm12AcceptsUnsignedAlias = false)
    (free : i.matchIn s.config.table &&& fieldMask i.format = 0#32) (h : exec i s = .next (s.deliver (.ok w))) :
    decodeSelected i.selector w = .ok i := by
  obtain ⟨legal, rfl⟩ := word_of_exec h
  rw [off] at legal
  rw [matchIn_eq_of_isFormatRequest hi s.config.table defaultTable] at free ⊢
  exact decodeSelected_encodeWord (Instr.wellFormed_iff.mpr ⟨legal, matchFree_of_matchIn free⟩)

end Sys2Proof.Machine
end

section
/-! SUPPORT. The operands of every request, named or not, read from its word by its format (30_encoding.md R67; 41_formats.md R115). -/

namespace Sys2Proof.Machine

/-- The format-encoder request whose operands are those the extraction functions read from the word (R67). -/
def requestRead (F : Format) (w : Word) : Instr :=
  let m := w &&& matchBits F
  match F with
  | .J => .encJ m (rdOf w) (immJOf w)
  | .R => .encR m (rdOf w) (rs1Of w) (rs2Of w)
  | .S => .encS m (rs1Of w) (rs2Of w) (immSOf w)
  | .I => .encI m (rdOf w) (rs1Of w) (immIOf w)
  | .Ishift => .encIshift m (rdOf w) (rs1Of w) (shamtOf w)
  | .U => .encU m (rdOf w) (immUOf w)
  | .B => .encB m (rs1Of w) (rs2Of w) (immBOf w)
  | .CSR => .encCSR m (rdOf w) (rs1Of w) (csrOf w)
  | .CSRI => .encCSRI m (rdOf w) (uimm5Of w) (csrOf w)
  | .zeroOperand => .ebreak

/-- The operands read from the layout of legal operands under a free match are the operands. -/
theorem operandOf_requestRead {i : Instr} {m w : Word} (hw : w = i.layoutBits ||| m) (free : m &&& fieldMask i.format = 0#32)
    (legal : i.legal false = true) (field : Field) : operandOf field (requestRead i.format w) = operandOf field i := by
  cases i with
  | ld | lw | lh | lb | flw | fld | addi | andi | ori | xori | encI =>
    obtain ⟨rfl, rfl, rfl⟩ := operands_layoutI hw free legal
    cases field <;> rfl
  | sd | sw | sh | sb | fsw | fsd | encS =>
    obtain ⟨rfl, rfl, rfl⟩ := operands_layoutS hw free legal
    cases field <;> rfl
  | slli | srli | encIshift =>
    obtain ⟨rfl, rfl, rfl⟩ := operands_layoutIshift hw free legal
    cases field <;> rfl
  | lui | encU =>
    obtain ⟨rfl, rfl⟩ := operands_layoutU hw free legal
    cases field <;> rfl
  | jal | encJ =>
    obtain ⟨rfl, rfl⟩ := operands_layoutJ hw free legal
    cases field <;> rfl
  | csrrw | csrrs | csrrc | encCSR =>
    obtain ⟨rfl, rfl, rfl⟩ := operands_layoutCSR hw free legal
    cases field <;> rfl
  | csrrwi | csrrsi | csrrci | encCSRI =>
    obtain ⟨rfl, rfl, rfl⟩ := operands_layoutCSRI hw free legal
    cases field <;> rfl
  | encR =>
    obtain ⟨rfl, rfl, rfl⟩ := operands_layoutR hw free legal
    cases field <;> rfl
  | encB =>
    obtain ⟨rfl, rfl, rfl⟩ := operands_layoutB hw free legal
    cases field <;> rfl
  | ebreak | cEbreak | dret | fenceI => cases field <;> rfl

/-- With the flag off and a free match, the operands of a request that delivers a word are read from the word. -/
theorem operandOf_of_exec {i : Instr} {s : State} {w : Word} (off : s.config.imm12AcceptsUnsignedAlias = false)
    (free : i.matchIn s.config.table &&& fieldMask i.format = 0#32) (h : exec i s = .next (s.deliver (.ok w))) (field : Field) :
    operandOf field (requestRead i.format w) = operandOf field i := by
  obtain ⟨legal, hw⟩ := word_of_exec h
  rw [off] at legal
  exact operandOf_requestRead hw free legal field

end Sys2Proof.Machine
end

section
/-! SUPPORT. An odd offset, and an immediate of the accepted band 2048..4095 (41_formats.md R105, R114). -/

namespace Sys2Proof.Machine

section
variable {m : Word} {rd rs1 rs2 v : Int}

theorem expectedJ_of_odd (hrd : regLegal rd = true) (odd : v % 2 ≠ 0) :
    expectedJ m rd v = .invalidOperand ⟨.imm, v, 21, .alignment⟩ := by
  rw [expectedJ, if_neg (by simp [hrd]), if_pos odd]

theorem expectedB_of_odd (hrs1 : regLegal rs1 = true) (hrs2 : regLegal rs2 = true) (odd : v % 2 ≠ 0) :
    expectedB m rs1 rs2 v = .invalidOperand ⟨.imm, v, 13, .alignment⟩ := by
  rw [expectedB, if_neg (by simp [hrs1]), if_neg (by simp [hrs2]), if_pos odd]

theorem immJLegal_of_odd (odd : v % 2 ≠ 0) : immJLegal v = false :=
  eq_false_of_ne_true fun h => odd (even_of_immJLegal h)

theorem immBLegal_of_odd (odd : v % 2 ≠ 0) : immBLegal v = false :=
  eq_false_of_ne_true fun h => odd (even_of_immBLegal h)

/-- The sign bit of the 12-bit pattern of a value in 2048..4095 is set. -/
theorem toInt_patternOf_band (lower : 2048 ≤ v) (upper : v ≤ 4095) : (patternOf 12 v).toInt = v - 4096 := by
  rw [patternOf, BitVec.toInt_ofInt, ← Int.sub_bmod_right, Int.bmod_eq_of_le] <;> norm_num <;> omega

end

/-- A request delivers the result it is expected to give. -/
theorem exec_of_expected {i : Instr} {s : State} {r : Result} (hw : s.config.wellFormed = true) (h : expected s.config i = r) :
    exec i s = .next (s.deliver r) :=
  h ▸ exec_eq_deliver_expected i hw

/-- Requests that are expected to give one common result deliver it. -/
theorem exec_of_map_expected {is : List Instr} {s : State} {r : Result} (hw : s.config.wellFormed = true)
    (h : is.map (expected s.config) = List.replicate is.length r) {i : Instr} (hi : i ∈ is) :
    exec i s = .next (s.deliver r) :=
  exec_of_expected hw (List.map_eq_replicate_iff.mp h i hi)

end Sys2Proof.Machine
end

section
/-! SUPPORT. The bits of a word that one operand can change (41_formats.md R116): outside the bits listed for the operand, the layout of a
request is the layout with that operand 0. -/

namespace Sys2Proof.Machine

/-- The layout of a format as a function of its operands by name (30_encoding.md R49, R55 to R63). -/
def layoutOf (F : Format) (ops : Field → Int) : Word :=
  match F with
  | .J => layoutJ (ops .rd) (ops .imm)
  | .R => layoutR (ops .rd) (ops .rs1) (ops .rs2)
  | .S => layoutS (ops .rs1) (ops .rs2) (ops .imm)
  | .I => layoutI (ops .rd) (ops .rs1) (ops .imm)
  | .Ishift => layoutIshift (ops .rd) (ops .rs1) (ops .shamt)
  | .U => layoutU (ops .rd) (ops .imm)
  | .B => layoutB (ops .rs1) (ops .rs2) (ops .imm)
  | .CSR => layoutCSR (ops .rd) (ops .rs1) (ops .csr)
  | .CSRI => layoutCSRI (ops .rd) (ops .imm) (ops .csr)
  | .zeroOperand => 0#32

/-- The operands of a request by name, 0 where its format has none of the name. -/
def operandsOf (i : Instr) (field : Field) : Int := (operandOf field i).getD 0

theorem layoutBits_eq_layoutOf (i : Instr) : i.layoutBits = layoutOf i.format (operandsOf i) := by cases i <;> rfl

/-- Replacing an operand by 0 keeps of each pattern what it keeps of the all-ones pattern. -/
theorem patternOf_update_zero (n : Nat) (ops : Field → Int) (field g : Field) :
    patternOf n (Function.update ops field 0 g) = patternOf n (ops g) &&& patternOf n (Function.update (fun _ => -1) field 0 g) := by
  have zeros : patternOf n 0 = 0#n := by simp [patternOf]
  have ones : patternOf n (-1) = BitVec.allOnes n := by simp [patternOf, BitVec.ofInt_neg, BitVec.neg_one_eq_allOnes]
  by_cases h : g = field
  · rw [h, Function.update_self, Function.update_self, zeros, BitVec.and_zero]
  · rw [Function.update_of_ne h, Function.update_of_ne h, ones, BitVec.and_allOnes]

/-- Replacing an operand by 0 clears bits of the layout, the same ones whatever the operands. -/
theorem layoutOf_update_zero (F : Format) (ops : Field → Int) (field : Field) :
    layoutOf F (Function.update ops field 0) = layoutOf F ops &&& layoutOf F (Function.update (fun _ => -1) field 0) := by
  cases F
  case zeroOperand => exact BitVec.and_zero.symm
  all_goals
    -- A layout is made of slices of patterns, and AND goes slice by slice.
    simp only [layoutOf, layoutJ, layoutR, layoutS, layoutI, layoutIshift, layoutU, layoutB, layoutCSR, layoutCSRI,
      patternOf_update_zero _ ops, BitVec.extractLsb'_and]
    repeat rw [BitVec.and_append]
    simp only [BitVec.and_self]

/-- Every field bit that is not listed for an operand is one of another operand (R66, R116). -/
theorem fieldMask_outside_operandBits (F : Format) (field : Field) :
    fieldMask F &&& ~~~operandBits F field &&& layoutOf F (Function.update (fun _ => -1) field 0) =
      fieldMask F &&& ~~~operandBits F field := by
  cases F <;> cases field <;> decide

/-- Outside the bits listed for an operand, the placed operands of a request do not depend on it. -/
theorem layoutBits_outside_operandBits (i : Instr) (field : Field) :
    i.layoutBits &&& ~~~operandBits i.format field =
      layoutOf i.format (Function.update (operandsOf i) field 0) &&& ~~~operandBits i.format field := by
  calc i.layoutBits &&& ~~~operandBits i.format field
      = i.layoutBits &&& (fieldMask i.format &&& ~~~operandBits i.format field) := by
        rw [← BitVec.and_assoc, layoutBits_and_fieldMask]
    _ = i.layoutBits &&& (fieldMask i.format &&& ~~~operandBits i.format field &&&
          layoutOf i.format (Function.update (fun _ => -1) field 0)) := by rw [fieldMask_outside_operandBits]
    _ = i.layoutBits &&& layoutOf i.format (Function.update (fun _ => -1) field 0) &&& ~~~operandBits i.format field := by
        rw [← BitVec.and_assoc, ← BitVec.and_assoc, layoutBits_and_fieldMask, BitVec.and_assoc, BitVec.and_comm (~~~_),
          ← BitVec.and_assoc]
    _ = layoutOf i.format (Function.update (operandsOf i) field 0) &&& ~~~operandBits i.format field := by
        rw [layoutOf_update_zero _ (operandsOf i), ← layoutBits_eq_layoutOf]

end Sys2Proof.Machine
end

section
/-! SUPPORT. AND with exclusive OR, and OR with exclusive OR, of patterns of any width. -/

namespace Sys2Proof.Machine

theorem xor_and_distrib_right {n : Nat} (x y z : BitVec n) : (x ^^^ y) &&& z = (x &&& z) ^^^ (y &&& z) :=
  BitVec.eq_of_getElem_eq (by simp [Bool.and_xor_distrib_right])

/-- Where no bit is set in both, OR is exclusive OR. -/
theorem or_eq_xor_of_and_eq_zero {n : Nat} {x y : BitVec n} (h : x &&& y = 0#n) : x ||| y = x ^^^ y := by
  apply BitVec.eq_of_getLsbD_eq
  intro k _
  have hk : (x &&& y).getLsbD k = (0#n).getLsbD k := congrArg (·.getLsbD k) h
  revert hk
  cases hx : x.getLsbD k <;> cases hy : y.getLsbD k <;> simp [hx, hy]

end Sys2Proof.Machine
end

section
/-! SUPPORT. The obligations of the family 41_formats.md. -/

namespace Sys2Proof.Machine

/-- Settles O49: the word decodes to the request under the selector of its format, and the decoder's answer is made of the
extraction functions and the match bits. -/
theorem roundTripRecoversOperands : Obligations.RoundTripRecoversOperands := by
  intro s m w a b c off
  -- In each format, the request the decoder reads from the word is the request that gave the word.
  have read {i j : Instr} (hi : isFormatRequest i = true) (free : i.matchIn s.config.table &&& fieldMask i.format = 0#32)
      (h : exec i s = .next (s.deliver (.ok w))) (hj : decodeSelected i.selector w = .ok j) : j = i :=
    Except.ok.inj (hj.symm.trans (decodeSelected_of_exec hi off free h))
  refine ⟨fun free h => ?_, fun free h => ?_, fun free h => ?_, fun free h => ?_, fun free h => ?_, fun free h => ?_,
    fun free h => ?_, fun free h => ?_, fun free h => ?_⟩
  · obtain ⟨hm, hrd, himm⟩ := Instr.encJ.inj (read rfl free h rfl)
    exact ⟨hrd, himm, hm⟩
  · obtain ⟨hm, hrd, hrs1, hrs2⟩ := Instr.encR.inj (read rfl free h rfl)
    exact ⟨hrd, hrs1, hrs2, hm⟩
  · obtain ⟨hm, hrs1, hrs2, himm⟩ := Instr.encS.inj (read rfl free h rfl)
    exact ⟨hrs1, hrs2, himm, hm⟩
  · obtain ⟨hm, hrd, hrs1, himm⟩ := Instr.encI.inj (read rfl free h rfl)
    exact ⟨hrd, hrs1, himm, hm⟩
  · obtain ⟨hm, hrd, hrs1, hshamt⟩ := Instr.encIshift.inj (read rfl free h rfl)
    refine ⟨hrd, hrs1, hshamt, ?_, hm⟩
    -- Bits [31:26] are match bits of the format.
    rw [← hm, BitVec.extractLsb'_and, show (matchBits .Ishift).extractLsb' 26 6 = BitVec.allOnes 6 from rfl, BitVec.and_allOnes]
  · obtain ⟨hm, hrd, himm⟩ := Instr.encU.inj (read rfl free h rfl)
    exact ⟨hrd, himm, hm⟩
  · obtain ⟨hm, hrs1, hrs2, himm⟩ := Instr.encB.inj (read rfl free h rfl)
    exact ⟨hrs1, hrs2, himm, hm⟩
  · obtain ⟨hm, hrd, hrs1, hcsr⟩ := Instr.encCSR.inj (read rfl free h rfl)
    exact ⟨hrd, hrs1, hcsr, hm⟩
  · obtain ⟨hm, hrd, himm, hcsr⟩ := Instr.encCSRI.inj (read rfl free h rfl)
    exact ⟨hrd, himm, hcsr, hm⟩

/-- Settles O14: the request delivers its expected result. -/
theorem jumpFormatEncoder : Obligations.JumpFormatEncoder :=
  fun _ m rd imm hw => exec_eq_deliver_expected (.encJ m rd imm) hw

/-- Settles O15: the request delivers its expected result. -/
theorem registerFormatEncoder : Obligations.RegisterFormatEncoder :=
  fun _ m rd rs1 rs2 hw => exec_eq_deliver_expected (.encR m rd rs1 rs2) hw

/-- Settles O16: the request delivers its expected result. -/
theorem storeFormatEncoder : Obligations.StoreFormatEncoder :=
  fun _ m rs1 rs2 imm hw => exec_eq_deliver_expected (.encS m rs1 rs2 imm) hw

/-- Settles O17: the request delivers its expected result. -/
theorem immediateFormatEncoder : Obligations.ImmediateFormatEncoder :=
  fun _ m rd rs1 imm hw => exec_eq_deliver_expected (.encI m rd rs1 imm) hw

/-- Settles O18: the request delivers its expected result. -/
theorem shiftFormatEncoder : Obligations.ShiftFormatEncoder :=
  fun _ m rd rs1 shamt hw => exec_eq_deliver_expected (.encIshift m rd rs1 shamt) hw

/-- Settles O19: the request delivers its expected result. -/
theorem upperImmediateFormatEncoder : Obligations.UpperImmediateFormatEncoder :=
  fun _ m rd imm hw => exec_eq_deliver_expected (.encU m rd imm) hw

/-- Settles O20: the request delivers its expected result. -/
theorem branchFormatEncoder : Obligations.BranchFormatEncoder :=
  fun _ m rs1 rs2 imm hw => exec_eq_deliver_expected (.encB m rs1 rs2 imm) hw

/-- Settles O21: the request delivers its expected result. -/
theorem csrRegisterFormatEncoder : Obligations.CsrRegisterFormatEncoder :=
  fun _ m rd rs1 csr hw => exec_eq_deliver_expected (.encCSR m rd rs1 csr) hw

/-- Settles O22: the request delivers its expected result. -/
theorem csrImmediateFormatEncoder : Obligations.CsrImmediateFormatEncoder :=
  fun _ m rd imm csr hw => exec_eq_deliver_expected (.encCSRI m rd imm csr) hw

/-- Settles O34: the expected result is no word, since a word has legal operands. -/
theorem outOfDomainOperandYieldsNoWord : Obligations.OutOfDomainOperandYieldsNoWord := by
  intro i s hw illegal
  rw [exec_eq_deliver_expected i hw]
  cases hr : expected s.config i with
  | invalidOperand f => exact ⟨f, rfl⟩
  | ok w => exact absurd (legal_of_expected_ok hr) (ne_true_of_eq_false illegal)

/-- Settles O38: the one result is the expected one. -/
theorem everyRequestGivesOneResult : Obligations.EveryRequestGivesOneResult :=
  fun i _ hw => ⟨_, exec_eq_deliver_expected i hw⟩

/-- Settles O42: the expected result is the same under both configurations. -/
theorem formatEncoderHasNoHiddenInput : Obligations.FormatEncoderHasNoHiddenInput := by
  intro i s t hi hs ht hflag
  refine ⟨expected s.config i, exec_eq_deliver_expected i hs, ?_⟩
  rw [expected_eq_of_isFormatRequest hi hflag]
  exact exec_eq_deliver_expected i ht

/-- Settles O46: the placed operands leave the match bits 0. -/
theorem matchBitsPassThrough : Obligations.MatchBitsPassThrough :=
  fun _ _ _ => matchBits_of_exec

/-- Settles O47: the field bits are the placed operands, which share no bit with the match. -/
theorem orEqualsSumAndXor : Obligations.OrEqualsSumAndXor := by
  intro i s w free h m f
  have hf : f = i.layoutBits := fieldBits_of_exec free h
  have hw : w = f ||| m := by rw [hf]; exact (word_of_exec h).2
  have disjoint : f &&& m = 0#32 := by
    calc f &&& m = w &&& (m &&& fieldMask i.format) := by rw [BitVec.and_assoc, BitVec.and_comm m]
      _ = 0#32 := by rw [free, BitVec.and_zero]
  exact ⟨disjoint, hw, hw.trans (BitVec.add_eq_or_of_and_eq_zero f m disjoint).symm,
    hw.trans (or_eq_xor_of_and_eq_zero disjoint)⟩

/-- Settles O48: both words have the placed operands in their field bits. -/
theorem fieldBitsIndependentOfMatch : Obligations.FieldBitsIndependentOfMatch := by
  intro i s m' w w' hi free free' h h'
  have fields := fieldBits_of_exec (free_of_matchFree hi free s.config.table) h
  have fields' := fieldBits_of_exec (by rwa [matchIn_withMatch hi, format_withMatch]) h'
  rw [format_withMatch, layoutBits_withMatch] at fields'
  exact ⟨fields, fields'.trans fields.symm⟩

/-- Settles O50: the extracted field is the 12-bit pattern of the immediate. -/
theorem acceptedBandRoundTripsAsPattern : Obligations.AcceptedBandRoundTripsAsPattern := by
  intro s m w a b imm _ lower upper
  refine ⟨fun free h => ?_, fun free h => ?_⟩
  · obtain ⟨-, hw⟩ := word_of_exec h
    obtain ⟨-, -, himm⟩ := fields_layoutI free a b imm hw
    rw [immIOf, himm, patternOf_toInt]
    exact ⟨toInt_patternOf_band lower upper, rfl⟩
  · obtain ⟨-, hw⟩ := word_of_exec h
    obtain ⟨-, -, himm⟩ := fields_layoutS free a b imm hw
    rw [immSOf, himm, patternOf_toInt]
    exact ⟨toInt_patternOf_band lower upper, rfl⟩

/-- Settles O51: the operands of both requests are those read from the common word. -/
theorem differentOperandsGiveDifferentWords : Obligations.DifferentOperandsGiveDifferentWords := by
  intro i j s w hformat hmatch free off h h' field
  have free' : j.matchIn s.config.table &&& fieldMask j.format = 0#32 := by rw [← hmatch, ← hformat, free]
  rw [← operandOf_of_exec off free h, ← operandOf_of_exec off free' h', hformat]

/-- Settles O52: outside the bits of the one operand that differs, both words are the match and the layout with that operand 0. -/
theorem operandChangesOnlyItsOwnBits : Obligations.OperandChangesOnlyItsOwnBits := by
  intro i j s field w w' hformat hmatch _ hothers h h'
  obtain ⟨-, rfl⟩ := word_of_exec h
  obtain ⟨-, rfl⟩ := word_of_exec h'
  have hops : Function.update (operandsOf i) field 0 = Function.update (operandsOf j) field 0 := by
    funext g
    by_cases hg : g = field
    · rw [hg, Function.update_self, Function.update_self]
    · rw [Function.update_of_ne hg, Function.update_of_ne hg, operandsOf, hothers g hg, operandsOf]
  have agree : (i.layoutBits ||| i.matchIn s.config.table) &&& ~~~operandBits i.format field =
      (j.layoutBits ||| j.matchIn s.config.table) &&& ~~~operandBits i.format field := by
    rw [BitVec.and_or_distrib_right, layoutBits_outside_operandBits, hops, hformat, hmatch, ← layoutBits_outside_operandBits,
      ← BitVec.and_or_distrib_right]
  rw [xor_and_distrib_right, agree, BitVec.xor_self]

/-- Settles O36: the registers pass, so the alignment check is the first to fail. -/
theorem oddOffsetFailsAlignment : Obligations.OddOffsetFailsAlignment :=
  fun _ _ _ _ _ hw h1 h2 odd => ⟨exec_of_expected hw (expectedJ_of_odd h1 odd), exec_of_expected hw (expectedB_of_odd h1 h2 odd)⟩

/-- Settles O37: the operands of the first list are legal, the results of the next four are evaluated, and an odd offset is out of its
domain. -/
theorem sourceBoundaries : Obligations.SourceBoundaries := by
  intro s m hw
  -- Either flag refuses 4096.
  have band (accepts : Bool) : [expectedS accepts m 0 0 4096, expectedI accepts m 0 0 4096] =
      List.replicate 2 (.invalidOperand ⟨.imm, 4096, 12, .range⟩) := by cases accepts <;> rfl
  refine ⟨fun i hi => ?_, fun i hi => ?_, fun i hi => ?_, fun i hi => ?_, fun i hi => ?_, fun r1 r2 imm odd i hi => ?_⟩
  · exact ⟨_, legalRequestYieldsLayoutWithMatch i s hw (List.all_eq_true.mp rfl i hi)⟩
  · exact exec_of_map_expected hw rfl hi
  · exact exec_of_map_expected hw rfl hi
  · exact exec_of_map_expected hw rfl hi
  · refine exec_of_map_expected hw ?_ hi
    exact band _
  · apply outOfDomainOperandYieldsNoWord i s hw
    obtain rfl | rfl := List.mem_pair.mp hi
    · rw [Instr.legal, immJLegal_of_odd odd, Bool.and_false]
    · rw [Instr.legal, immBLegal_of_odd odd, Bool.and_false]

end Sys2Proof.Machine
end

section
/-! SUPPORT. The obligations of the family 42_loads.md. -/

namespace Sys2Proof.Machine

/-- Settles O23: each load delivers its expected result, the I format with its own match; the default constants are read off the table. -/
theorem loadConstructors : Obligations.LoadConstructors := by
  refine ⟨fun s rd rs1 imm hw => ?_, rfl, rfl, rfl, rfl, rfl, rfl⟩
  have deliver (i : Instr) : exec i s = .next (s.deliver (expected s.config i)) := exec_eq_deliver_expected i hw
  exact ⟨deliver (.ld rd rs1 imm), deliver (.lw rd rs1 imm), deliver (.lh rd rs1 imm), deliver (.lb rd rs1 imm),
    deliver (.flw rd rs1 imm), deliver (.fld rd rs1 imm)⟩

end Sys2Proof.Machine
end

section
/-! SUPPORT. The obligations of the family 43_stores.md. -/

namespace Sys2Proof.Machine

/-- Settles O24: each store delivers its expected result, the S format with its own match; the default constants are read off the table. -/
theorem storeConstructors : Obligations.StoreConstructors := by
  refine ⟨fun s rs1 rs2 imm hw => ?_, rfl, rfl, rfl, rfl, rfl, rfl⟩
  have deliver (i : Instr) : exec i s = .next (s.deliver (expected s.config i)) := exec_eq_deliver_expected i hw
  exact ⟨deliver (.sd rs1 rs2 imm), deliver (.sw rs1 rs2 imm), deliver (.sh rs1 rs2 imm), deliver (.sb rs1 rs2 imm),
    deliver (.fsw rs1 rs2 imm), deliver (.fsd rs1 rs2 imm)⟩

end Sys2Proof.Machine
end

section
/-! SUPPORT. The obligations of the family 44_alu_imm.md. -/

namespace Sys2Proof.Machine

/-- Settles O25: each request delivers its expected result, the I format with its own match; the default constants are read off the table. -/
theorem immediateAluConstructors : Obligations.ImmediateAluConstructors := by
  refine ⟨fun s rd rs1 imm hw => ?_, rfl, rfl, rfl, rfl⟩
  have deliver (i : Instr) : exec i s = .next (s.deliver (expected s.config i)) := exec_eq_deliver_expected i hw
  exact ⟨deliver (.addi rd rs1 imm), deliver (.andi rd rs1 imm), deliver (.ori rd rs1 imm), deliver (.xori rd rs1 imm)⟩

/-- Settles O26: each shift delivers its expected result, the I-shift format with its own match, both checks of the shift amount
included; the default constants are read off the table. -/
theorem shiftConstructors : Obligations.ShiftConstructors :=
  ⟨fun _ rd rs1 shamt hw =>
    ⟨exec_eq_deliver_expected (.slli rd rs1 shamt) hw, exec_eq_deliver_expected (.srli rd rs1 shamt) hw⟩, rfl, rfl⟩

end Sys2Proof.Machine
end

section
/-! SUPPORT. The obligations of the family 45_upper_jump.md. -/

namespace Sys2Proof.Machine

/-- Settles O27: each request delivers its expected result, `lui` by the U format and `jal` by the J format, each with its own match;
the default constants are read off the table. -/
theorem upperImmediateAndJumpConstructors : Obligations.UpperImmediateAndJumpConstructors :=
  ⟨fun _ rd imm hw =>
    ⟨exec_eq_deliver_expected (.lui rd imm) hw, exec_eq_deliver_expected (.jal rd imm) hw⟩, rfl, rfl⟩

end Sys2Proof.Machine
end

section
/-! SUPPORT. The obligations of the family 46_csr.md. -/

namespace Sys2Proof.Machine

/-- Settles O28: each register form delivers its expected result, the CSR format with its own match; the default constants are read off
the table. -/
theorem csrRegisterConstructors : Obligations.CsrRegisterConstructors :=
  ⟨fun _ rd rs1 csr hw =>
    ⟨exec_eq_deliver_expected (.csrrw rd rs1 csr) hw, exec_eq_deliver_expected (.csrrs rd rs1 csr) hw,
      exec_eq_deliver_expected (.csrrc rd rs1 csr) hw⟩, rfl, rfl, rfl⟩

/-- Settles O29: each immediate form delivers its expected result, the CSRI format with its own match, its immediate checked as an
unsigned 5-bit value; the default constants are read off the table. -/
theorem csrImmediateConstructors : Obligations.CsrImmediateConstructors :=
  ⟨fun _ rd imm csr hw =>
    ⟨exec_eq_deliver_expected (.csrrwi rd imm csr) hw, exec_eq_deliver_expected (.csrrsi rd imm csr) hw,
      exec_eq_deliver_expected (.csrrci rd imm csr) hw⟩, rfl, rfl, rfl⟩

end Sys2Proof.Machine
end

section
/-! SUPPORT. The obligations of the family 47_fixed.md. -/

namespace Sys2Proof.Machine

/-- Settles O30: each zero-operand request delivers its expected result, its match itself with no check before it; the default constants
are read off the table. -/
theorem zeroOperandConstructors : Obligations.ZeroOperandConstructors :=
  ⟨fun _ hw =>
    ⟨exec_eq_deliver_expected .ebreak hw, exec_eq_deliver_expected .cEbreak hw, exec_eq_deliver_expected .dret hw,
      exec_eq_deliver_expected .fenceI hw⟩, rfl, rfl, rfl, rfl⟩

/-- Settles O32: the default configuration is well formed, so each of the four requests delivers its match, here that of the default
table. -/
theorem defaultConstantWords : Obligations.DefaultConstantWords := by
  intro s hs
  obtain ⟨answers, ebreak, cEbreak, dret, fenceI⟩ := zeroOperandConstructors
  have words := answers s (hs ▸ wellFormed_standard)
  have table : s.config.table = defaultTable := congrArg Config.table hs
  rw [table, ebreak, cEbreak, dret, fenceI] at words
  obtain ⟨onEbreak, onCEbreak, onDret, onFenceI⟩ := words
  exact ⟨onEbreak, onCEbreak, onDret, onFenceI, by decide⟩

end Sys2Proof.Machine
end

section
/-! SUPPORT. Every failure among the expected results is raised by the request's own format and records that request's operand
(60_exceptions.md R148, columns "raised by", "field" and "recorded width"). -/

namespace Sys2Proof.Machine

/-- A result that is no failure, or a failure the request's format may raise, with the named operand of the request as its value. -/
def IsRaisedBy (i : Instr) (r : Result) : Prop :=
  ∀ f, r = .invalidOperand f → i.format ∈ raisers f.field f.reason f.width ∧ reportedOperand f.field i = some f.value

theorem isRaisedBy_ok {i : Instr} {w : Word} : IsRaisedBy i (.ok w) := by
  intro f h
  cases h

/-- A check that the request's format makes, and that records the request's own operand, may stand before any result raised by the
request. -/
theorem isRaisedBy_check {i : Instr} {cond : Prop} [Decidable cond] {f : InvalidOperand} {r : Result}
    (raiser : decide (i.format ∈ raisers f.field f.reason f.width) = true) (operand : reportedOperand f.field i = some f.value)
    (passed : IsRaisedBy i r) : IsRaisedBy i (if cond then .invalidOperand f else r) := by
  split
  · intro f' hf
    cases hf
    exact ⟨of_decide_eq_true raiser, operand⟩
  · exact passed

/-- Every failure among the expected results is raised by the request: its format makes a row of checks, none for a constant, and each
check names one of the request's operands (R148, R91). Of the two `rfl` at a check, the first reads the raisers of its record, the second
the operand of the record's field. -/
theorem expected_isRaisedBy (c : Config) (i : Instr) : IsRaisedBy i (expected c i) := by
  cases i with
  | ebreak | cEbreak | dret | fenceI => exact isRaisedBy_ok
  | lui | encU =>
    exact isRaisedBy_check rfl rfl <| isRaisedBy_check rfl rfl isRaisedBy_ok
  | ld | lw | lh | lb | flw | fld | addi | andi | ori | xori | encI | sd | sw | sh | sb | fsw | fsd | encS | jal | encJ | encR
  | csrrw | csrrs | csrrc | encCSR | csrrwi | csrrsi | csrrci | encCSRI =>
    exact isRaisedBy_check rfl rfl <| isRaisedBy_check rfl rfl <| isRaisedBy_check rfl rfl isRaisedBy_ok
  | slli | srli | encIshift | encB =>
    exact isRaisedBy_check rfl rfl <| isRaisedBy_check rfl rfl <| isRaisedBy_check rfl rfl <|
      isRaisedBy_check rfl rfl isRaisedBy_ok

end Sys2Proof.Machine
end

section
/-! SUPPORT. The obligation of the family 60_exceptions.md. -/

namespace Sys2Proof.Machine

/-- Settles O35: the failure is the request's expected result, which the request raises and whose condition holds. -/
theorem failureRecordHasListedCause : Obligations.FailureRecordHasListedCause := by
  intro i s f hexec
  obtain ⟨-, hdelivered⟩ := exec_next_expected hexec
  have hexpected := (State.deliver_injective hdelivered).symm
  obtain ⟨raiser, operand⟩ := expected_isRaisedBy s.config i f hexpected
  exact ⟨raiser, expected_hasListedCause s.config i f hexpected, operand⟩

end Sys2Proof.Machine
end
